-- ==== Sys2Proof/Word.lean ====
section
/-! DEFINITION. The widths of the machine's words (R4 of 00_scope.md). -/

namespace Sys2Proof

/-- A general register, a memory byte, DT, ST or SP: `XLEN` = 8 bits (R4). -/
abbrev Byte := BitVec 8

/-- An instruction word, PC, I or a stack entry: 16 bits (R4, R90). -/
abbrev Word := BitVec 16

/-- A 4-bit field: a register number `x`, `y`, a sprite height `n`, a key code (R91). -/
abbrev Nibble := BitVec 4

/-- The 12-bit address immediate `nnn` (R91). -/
abbrev Addr := BitVec 12

end Sys2Proof
end

