-- ==== Sys2Proof/Config.lean ====
section
/-! DEFINITION. The parameters of the machine: the policies of R5 (00_scope.md) at the choice the spec makes for
each, and the values the spec leaves open, as constants without a body, so that no proof can know them. -/

namespace Sys2Proof

/-- What a stack access with an index outside 0..15 does (`STACK_INDEX_POLICY`, R5, D3). -/
inductive StackIndexPolicy
  /-- no next state is defined: the marker UndefinedStackIndex -/
  | fault
  /-- the index is SP mod 16, silently -/
  | wrap16
  deriving DecidableEq, Repr

/-- What a data access above 0xFFF does (`DATA_ADDR_POLICY`, R5, D4). -/
inductive DataAddrPolicy
  /-- no next state is defined: the marker UndefinedDataAddress -/
  | fault
  /-- the address is taken mod 4096, silently -/
  | wrap12
  deriving DecidableEq, Repr

/-- `MEM_SIZE` (R4): the number of bytes of main memory. -/
abbrev Config.memSize : Nat := 4096

/-- `PROG_START` (R4): the reset value of PC and the load address of the program image. -/
abbrev Config.progStart : Nat := 0x200

/-- `MAX_PROG` (R4, R264): the largest program image. -/
abbrev Config.maxProg : Nat := 3584

/-- `SP_IDLE` (R4, R27): the value of SP that means that the stack is empty. -/
abbrev Config.spIdle : Byte := 0xFF#8

/-- The spec's choice of R5 and D3. DESIGN CHOICE, log 11; safe. -/
def Config.stackIndexPolicy : StackIndexPolicy := .fault

/-- The spec's choice of R5 and D4. DESIGN CHOICE, log 12; safe. -/
def Config.dataAddrPolicy : DataAddrPolicy := .fault

/-- `ODD_PC_HALTS` (R5): the spec's choice of D1. DESIGN CHOICE, log 13; unsafe. -/
def Config.oddPcHalts : Bool := false

/-- FREE VALUE: the byte that Cxkk samples when no byte is queued in `randIn`, one for each value of `freeCount`
(R151, R243, D19). Log 7; safe. -/
opaque Config.freeByte : Nat → Byte

/-- FREE VALUE: the answer of the key query of Ex9E and ExA1 for a key code above 15, one for each value of
`freeCount` (R200, R201, D11). Log 8; safe. -/
opaque Config.freeKey : Nat → Bool

/-- FREE VALUE: which cell of the framebuffer, as 64 * y + x, the n-th cell of the snapshot's pixel map is
(R266, N41): some bijection. Log 25; safe. -/
opaque Config.cellOrder : Equiv.Perm (Fin 2048)

/-- FREE VALUE: the colour that the snapshot stores for a set cell (R266, N41). Log 25; safe. -/
opaque Config.setColor : BitVec 32

/-- FREE VALUE: the colour that the snapshot stores for a clear cell, before `Machine.clearColor` makes it differ from
`setColor` (R266, N41). Log 25; safe. -/
opaque Config.rawClearColor : BitVec 32

/-- FREE VALUE: whether a colour in a snapshot that is neither of the two means a set cell (R267, N41). Log 25; safe. -/
opaque Config.otherColorIsSet : BitVec 32 → Bool

end Sys2Proof
end

