-- ==== Sys2Proof/Machine/State.lean ====
section
/-! DEFINITION. The state of the machine as plain data (10_state.md), the events of its environment (R227 of
60_exceptions.md), the reasons a step can stop, and the state after reset (R45). -/

namespace Sys2Proof.Machine

/-- Main memory (R29, R60): address and byte, in the canonical form `Memory.wf`; an address that is not listed reads as
`Memory.blank`. -/
abbrev Memory := List Host.Cell

/-- The framebuffer (R31): 32 rows of 64 cells, row y then column x; true is set. -/
abbrev Framebuffer := Vector (Vector Bool 64) 32

/-- The run state (R40). -/
inductive RunState
  | running
  /-- waiting for a key press in Fx0A (R233) -/
  | blocked
  /-- terminal (R231) -/
  | halted
  deriving DecidableEq, Repr

/-- The values that the spec leaves open at reset (R5, R45): GLYPHS, MEM_INIT (the bytes from 0x050 on), FB_INIT,
KEYS_INIT, and wait_reg (R41). -/
structure ResetValues where
  glyphs : Vector Byte 80
  memInit : Vector Byte 4016
  fbInit : Framebuffer
  keysInit : Vector Bool 16
  waitInit : Nibble
  deriving DecidableEq, Repr

/-- What the environment can do between two core steps (R9, R227). -/
inductive Event
  /-- 1/60 s of wall clock has passed (R237) -/
  | timerTick
  /-- a key press (R234) -/
  | keyDown (k : Nibble)
  /-- a key release (R235) -/
  | keyUp (k : Nibble)
  /-- the test bench's `set_key_state`, which ends no wait (R242) -/
  | setKeyState (k : Nibble) (pressed : Bool)
  /-- the host's quit signal (R223) -/
  | quit
  /-- the host loads a program image (R263) -/
  | loadProgram (image : List Byte)
  /-- the host takes a snapshot (R266) -/
  | saveState
  /-- the host restores a snapshot (R267) -/
  | restoreState (image : List Byte)
  /-- the machine is constructed anew (R260), with these open values (log 27) -/
  | reset (values : ResetValues)
  deriving DecidableEq, Repr

/-- Who moves next (R9): the core with one step, or the environment with one event. DESIGN CHOICE, log 9; safe. -/
inductive Turn
  | core
  | environment (e : Event)
  deriving DecidableEq, Repr

/-- The state of the machine. The first fourteen fields are the spec's; `started` is the launch
phase that R73 and R263 imply; `turns` and `randIn` hold the inputs to come, and
`freeCount` is the model's own, for free values. -/
structure State where
  /-- V[0]..V[15] (R20); V[15] is VF (R21) -/
  v : Vector Byte 16
  /-- I (R26) -/
  i : Word
  /-- PC (R22) -/
  pc : Word
  /-- SP (R27) -/
  sp : Byte
  /-- Stack[0]..Stack[15] (R30) -/
  stack : Vector Word 16
  /-- DT (R28) -/
  dt : Byte
  /-- ST (R28) -/
  st : Byte
  /-- Memory (R29) -/
  mem : Memory
  /-- FB (R31) -/
  fb : Framebuffer
  /-- Key[0]..Key[15] (R32); true is pressed -/
  keys : Vector Bool 16
  /-- run_state (R40) -/
  runState : RunState
  /-- wait_reg (R41) -/
  waitReg : Nibble
  /-- the transient flag draw (R42) -/
  draw : Bool
  /-- the transient flag quit (R43) -/
  quit : Bool
  /-- the core has executed since the machine was constructed: a program is running, and no program can be loaded any
  more (R73, R263; log 24) -/
  started : Bool
  /-- the turns to come; when none is left the core moves (R9, R228; log 9) -/
  turns : List Turn
  /-- the bytes that the input port rand_in will present (R151, R243; log 7) -/
  randIn : List Byte
  /-- the model's own counter, the argument of the free values of Config (logs 7, 8) -/
  freeCount : Nat
  deriving DecidableEq, Repr

/-- Why a step has no next state. Both are markers of the spec, not traps of the hardware (R224). -/
inductive Fault
  /-- Raised by 00EE and 2nnn when the stack index is outside 0..15; it records the index (R78, R121, R123, R221).
  Safe: the spec defines no next state there. Log 11. -/
  | undefinedStackIndex (index : Byte)
  /-- Raised by Dxyn, Fx33, Fx55 and Fx65 when the highest address they access is above 0xFFF; it records that address
  (R62, R63, R221). Safe: the spec defines no next state there. Log 12. -/
  | undefinedDataAddress (addr : Nat)
  deriving DecidableEq, Repr

/-- Why the model gives a step no meaning. -/
inductive Refusal
  /-- Raised by an arm of exec whose instruction has no meaning yet; safe. No arm raises it now. -/
  | notModelled (mnemonic : String)
  /-- Raised by the event loadProgram for an image above 3584 bytes: it is rejected and the machine does not start
  (R264, D35). Safe. Log 24. -/
  | imageTooLarge (length : Nat)
  /-- Raised by the event loadProgram once a program is running: the spec gives a load no meaning there (R263), and
  none may write main memory (R73). Safe. Log 24. -/
  | loadWhileRunning
  deriving DecidableEq, Repr

/-- The machine right after reset (R45, R261). Memory lists nothing: every byte reads as `Memory.blank` (logs 1, 2).
The spec leaves FB, Key and wait_reg open: all clear, all released, 0 (DESIGN CHOICE, logs 3, 4, 5; unsafe).
`powerOn` is the same with every open value as an argument. -/
def State.reset : State where
  v := Vector.replicate 16 0x00#8
  i := 0x0000#16
  pc := 0x0200#16
  sp := 0xFF#8
  stack := Vector.replicate 16 0x0000#16
  dt := 0x00#8
  st := 0x00#8
  mem := []
  fb := Vector.replicate 32 (Vector.replicate 64 false)
  keys := Vector.replicate 16 false
  runState := .running
  waitReg := 0#4
  draw := false
  quit := false
  started := false
  turns := []
  randIn := []
  freeCount := 0

end Sys2Proof.Machine
end

