-- ==== Sys2Proof/Machine/Memory.lean ====
section
/-! DEFINITION. Main memory as a list in canonical form (R29, R60 to R64 of 20_memory.md): what an unlisted address
reads as, the canonical form, and the byte read and write of R62. -/

namespace Sys2Proof.Machine

/-- The glyphs of the digits 0 to 7, five bytes each: the customary table (R29). PRESUMED, log 2; unsafe. -/
def glyphTableLow : List Byte :=
  [0xF0#8, 0x90#8, 0x90#8, 0x90#8, 0xF0#8] ++ [0x20#8, 0x60#8, 0x20#8, 0x20#8, 0x70#8] ++
  [0xF0#8, 0x10#8, 0xF0#8, 0x80#8, 0xF0#8] ++ [0xF0#8, 0x10#8, 0xF0#8, 0x10#8, 0xF0#8] ++
  [0x90#8, 0x90#8, 0xF0#8, 0x10#8, 0x10#8] ++ [0xF0#8, 0x80#8, 0xF0#8, 0x10#8, 0xF0#8] ++
  [0xF0#8, 0x80#8, 0xF0#8, 0x90#8, 0xF0#8] ++ [0xF0#8, 0x10#8, 0x20#8, 0x40#8, 0x40#8]

/-- The glyphs of the digits 8 to F (R29). PRESUMED, log 2; unsafe. -/
def glyphTableHigh : List Byte :=
  [0xF0#8, 0x90#8, 0xF0#8, 0x90#8, 0xF0#8] ++ [0xF0#8, 0x90#8, 0xF0#8, 0x10#8, 0xF0#8] ++
  [0xF0#8, 0x90#8, 0xF0#8, 0x90#8, 0x90#8] ++ [0xE0#8, 0x90#8, 0xE0#8, 0x90#8, 0xE0#8] ++
  [0xF0#8, 0x80#8, 0x80#8, 0x80#8, 0xF0#8] ++ [0xE0#8, 0x90#8, 0x90#8, 0x90#8, 0xE0#8] ++
  [0xF0#8, 0x80#8, 0xF0#8, 0x80#8, 0xF0#8] ++ [0xF0#8, 0x80#8, 0xF0#8, 0x80#8, 0x80#8]

/-- `GLYPHS` (R29, R5): 80 bytes, glyph d at 5 * d. PRESUMED, log 2; unsafe. -/
def glyphTable : List Byte := glyphTableLow ++ glyphTableHigh

/-- What an address that memory does not list reads as: the glyph table at 0x000..0x04F (PRESUMED, log 2; unsafe), and
0x00 elsewhere, where the spec gives no reset value (DESIGN CHOICE, log 1; unsafe). -/
def Memory.blank (a : Nat) : Byte := glyphTable.getD a 0x00#8

/-- The canonical form: addresses below 4096 that strictly rise, and no entry equal to what its address reads as when it
is not listed. -/
abbrev Memory.wf (m : Memory) : Prop :=
  m.Pairwise (fun c d => c.1 < d.1) ∧ ∀ c ∈ m, c.1 < 4096 ∧ c.2 ≠ Memory.blank c.1

/-- `MemRead(a, 1)` (R62). -/
def Memory.read : Memory → Nat → Byte
  | [], a => Memory.blank a
  | c :: m, a => if a = c.1 then c.2 else Memory.read m a

/-- The entry of a byte in the canonical form: none when the address reads so unlisted. -/
def Memory.entry (a : Nat) (b : Byte) : Memory :=
  if b = Memory.blank a then [] else [(a, b)]

/-- `MemWrite(a, 1, b)` (R62). -/
def Memory.write : Memory → Nat → Byte → Memory
  | [], a, b => Memory.entry a b
  | c :: m, a, b =>
    if a < c.1 then Memory.entry a b ++ c :: m
    else if a = c.1 then Memory.entry a b ++ m
    else c :: Memory.write m a b

/-- The bytes are written one after another from an address on, ascending (R174, R263), each at the address that
`place` gives. -/
def Memory.writeFrom (place : Nat → Nat) (m : Memory) (base : Nat) : List Byte → Memory
  | [] => m
  | b :: bs => Memory.writeFrom place (m.write (place base) b) (base + 1) bs

/-- `count` bytes from an address on, ascending (R175), each at the address that `place` gives. -/
def Memory.readFrom (place : Nat → Nat) (m : Memory) (base count : Nat) : List Byte :=
  (List.range count).map fun k => m.read (place (base + k))

end Sys2Proof.Machine
end

