-- ==== Sys2Proof/Machine/Ops.lean ====
section
/-! DEFINITION. The named operations over the state: every register's read and write, the stack slot (R78 of
20_memory.md), the skip (R120 of 40_flow.md), the entry to Halted (R230 of 60_exceptions.md), which this machine has in
place of taking an exception (R220), and the free inputs. -/

namespace Sys2Proof.Machine

/-- What a meaning, an event or a step answers. -/
abbrev Result := Host.Outcome State Fault Refusal

/-- `V[x]` (R8, R20). -/
def State.getV (s : State) (x : Nibble) : Byte := s.v[x.toNat]'x.isLt

/-- `V[x] <- b` (R8, R20). -/
def State.setV (s : State) (x : Nibble) (b : Byte) : State := { s with v := s.v.set x.toNat b x.isLt }

/-- `I <- w` (R26). -/
def State.setI (s : State) (w : Word) : State := { s with i := w }

/-- `PC <- w` (R22). -/
def State.setPc (s : State) (w : Word) : State := { s with pc := w }

/-- `SP <- b` (R27). -/
def State.setSp (s : State) (b : Byte) : State := { s with sp := b }

/-- `Stack[k]` (R30). -/
def State.getStack (s : State) (k : Nibble) : Word := s.stack[k.toNat]'k.isLt

/-- `Stack[k] <- w` (R30). -/
def State.setStack (s : State) (k : Nibble) (w : Word) : State := { s with stack := s.stack.set k.toNat w k.isLt }

/-- `DT <- b` (R28). -/
def State.setDt (s : State) (b : Byte) : State := { s with dt := b }

/-- `ST <- b` (R28). -/
def State.setSt (s : State) (b : Byte) : State := { s with st := b }

/-- Memory is replaced. -/
def State.setMem (s : State) (m : Memory) : State := { s with mem := m }

/-- The framebuffer is replaced. -/
def State.setFb (s : State) (fb : Framebuffer) : State := { s with fb := fb }

/-- `Key[k]` (R32). -/
def State.getKey (s : State) (k : Nibble) : Bool := s.keys[k.toNat]'k.isLt

/-- `Key[k] <- b`: by the environment only (R32). -/
def State.setKey (s : State) (k : Nibble) (b : Bool) : State := { s with keys := s.keys.set k.toNat b k.isLt }

/-- `run_state <- r` (R40). -/
def State.setRunState (s : State) (r : RunState) : State := { s with runState := r }

/-- `wait_reg <- x` (R41). -/
def State.setWaitReg (s : State) (x : Nibble) : State := { s with waitReg := x }

/-- `draw <- b` (R42). -/
def State.setDraw (s : State) (b : Bool) : State := { s with draw := b }

/-- `quit <- b` (R43). -/
def State.setQuit (s : State) (b : Bool) : State := { s with quit := b }

/-- The launch phase ends or begins (R263, log 24). -/
def State.setStarted (s : State) (b : Bool) : State := { s with started := b }

/-- The turns to come are replaced (log 9). -/
def State.setTurns (s : State) (ts : List Turn) : State := { s with turns := ts }

/-- The bytes queued at rand_in are replaced (log 7). -/
def State.setRandIn (s : State) (bs : List Byte) : State := { s with randIn := bs }

/-- The counter of the free values moves on (logs 7, 8). -/
def State.bumpFree (s : State) : State := { s with freeCount := s.freeCount + 1 }

/-- The entry of the return stack that an index selects, if any (R78). Under the policy `fault`, which Config chooses,
an index outside 0..15 selects none (D3, log 11). -/
def stackSlot (policy : StackIndexPolicy) (index : Byte) : Option Nibble :=
  match policy with
  | .fault => if index.toNat ≤ 15 then some (index.setWidth 4) else none
  | .wrap16 => some (index.setWidth 4)

/-- "Skip" when the condition holds: PC + 2 once more (R120). -/
def State.skipIf (s : State) (c : Bool) : State :=
  if c then s.setPc (s.pc + 2#16) else s

/-- The entry to Halted: nothing changes but the run state (R230). There is no return from it (R231). -/
def State.halt (s : State) : State := s.setRunState .halted

/-- `draw_byte()` (R8, R151, R243): the byte that the port rand_in presents, and the state after the sample. Where no
byte is queued it is a free value. DESIGN CHOICE, log 7; safe. -/
def State.drawByte (s : State) : Byte × State :=
  match s.randIn with
  | b :: bs => (b, s.setRandIn bs)
  | [] => (Config.freeByte s.freeCount, s.bumpFree)

/-- The key query of Ex9E and ExA1 for the code `k`, and the state after it (R200): the level of the key for a code up to
15, a free value above (D11). DESIGN CHOICE, log 8; safe. -/
def State.queryKey (s : State) (k : Byte) : Bool × State :=
  if k.toNat ≤ 15 then (s.getKey (k.setWidth 4), s) else (Config.freeKey s.freeCount, s.bumpFree)

/-- tone_on = (ST != 0): the output to the tone generator (R239). -/
def State.toneOn (s : State) : Bool := s.st != 0x00#8

end Sys2Proof.Machine
end

