-- ==== Sys2Proof/Machine/Operands.lean ====
section
/-! DEFINITION. The operand forms: immediates extended by zero (R93 of 30_encoding.md), the one data addressing mode
I + k (R176 of 42_index_memory.md) with the check of the whole span before any effect (R63 of 20_memory.md), and the
byte groups that Fx33, Fx55, Fx65 and Dxyn move. -/

namespace Sys2Proof.Machine

/-- `zext_16(nnn)` (R93). -/
def zextAddr (nnn : Addr) : Word := nnn.setWidth 16

/-- `zext_16` of a register's byte (R128, R171, R172). -/
def zextByte (b : Byte) : Word := b.setWidth 16

/-- The effective address of the k-th byte of an access: I + k on unbounded integers (R176). -/
def State.dataAddr (s : State) (k : Nat) : Nat := s.i.toNat + k

/-- The cell that an effective address selects: itself, or mod 4096 under the policy that Config does not choose
(R62, D4, log 12). -/
def placeData (policy : DataAddrPolicy) (a : Nat) : Nat :=
  match policy with
  | .fault => a
  | .wrap12 => a % 4096

/-- The highest address of an access of `count` bytes when it lies above 0xFFF (R63): then the whole instruction has no
defined next state (D4, D30, log 12). An access of no bytes is not checked. -/
def State.spanFault (policy : DataAddrPolicy) (s : State) (count : Nat) : Option Nat :=
  match policy with
  | .fault => if 0 < count ∧ 0xFFF < s.dataAddr (count - 1) then some (s.dataAddr (count - 1)) else none
  | .wrap12 => none

/-- Answers `t` after the check of R63 on `count` bytes at I. -/
def State.withSpan (s : State) (count : Nat) (t : State) : Result :=
  match s.spanFault Config.dataAddrPolicy count with
  | some a => .fault (.undefinedDataAddress a)
  | none => .next t

/-- `count` bytes of memory at I (R176). -/
def State.loadBytes (s : State) (count : Nat) : List Byte :=
  s.mem.readFrom (placeData Config.dataAddrPolicy) (s.dataAddr 0) count

/-- The bytes are stored at I, ascending (R176). -/
def State.storeBytes (s : State) (bs : List Byte) : State :=
  s.setMem (s.mem.writeFrom (placeData Config.dataAddrPolicy) (s.dataAddr 0) bs)

/-- V[0], .., V[count - 1] (R174). -/
def State.firstRegs (s : State) (count : Nat) : List Byte :=
  (List.range count).map fun k => s.getV (BitVec.ofNat 4 k)

/-- V[k] takes the first byte, V[k + 1] the next, and so on, ascending (R175). -/
def State.loadRegsFrom (s : State) (k : Nat) : List Byte → State
  | [] => s
  | b :: bs => (s.setV (BitVec.ofNat 4 k) b).loadRegsFrom (k + 1) bs

/-- The decimal digits of a byte, hundreds, tens, ones, one a byte (R173). The order is the spec's D16; log 19. -/
def bcdDigits (b : Byte) : List Byte :=
  [BitVec.ofNat 8 (b.toNat / 100), BitVec.ofNat 8 (b.toNat / 10 % 10), BitVec.ofNat 8 (b.toNat % 10)]

end Sys2Proof.Machine
end

