-- ==== Sys2Proof/Machine/Flags.lean ====
section
/-! DEFINITION. The flag values of R152 (41_alu.md), computed on the untruncated operands, and the order in which a
result and its flag are written (R153). -/

namespace Sys2Proof.Machine

/-- A flag as the value of VF: 1 or 0 (R21, R150). -/
def flagByte (b : Bool) : Byte := if b then 0x01#8 else 0x00#8

/-- Carry: a + b > 255 (R146). -/
def carryFlag (a b : Byte) : Byte := flagByte (decide (a.toNat + b.toNat > 255))

/-- No borrow of a - b: the strict comparison a > b (R147, R149). -/
def noBorrowFlag (a b : Byte) : Byte := flagByte (decide (a.toNat > b.toNat))

/-- The bit that a shift right by one moves out: bit 0 (R148). -/
def shiftedOutRight (a : Byte) : Byte := flagByte (a.getLsbD 0)

/-- The bit that a shift left by one moves out: bit 7 (R150). -/
def shiftedOutLeft (a : Byte) : Byte := flagByte (a.getLsbD 7)

/-- The result goes to V[x], then the flag to V[15], so that with x = 15 the flag stays (R153; D9, log 17). -/
def State.setWithFlag (s : State) (x : Nibble) (result flag : Byte) : State :=
  (s.setV x result).setV 0xF#4 flag

end Sys2Proof.Machine
end

