-- ==== Sys2Proof/Machine/Alu.lean ====
section
/-! DEFINITION. Register and ALU instructions (41_alu.md). -/

namespace Sys2Proof.Machine

/-- 6xkk LD Vx, kk (R140). -/
def execLdImm (x : Nibble) (kk : Byte) (s : State) : Result := .next (s.setV x kk)

/-- 7xkk ADD Vx, kk: no flag (R141). -/
def execAddImm (x : Nibble) (kk : Byte) (s : State) : Result := .next (s.setV x (s.getV x + kk))

/-- 8xy0 LD Vx, Vy (R142). -/
def execLdReg (x y : Nibble) (s : State) : Result := .next (s.setV x (s.getV y))

/-- 8xy1 OR Vx, Vy: no flag (R143). -/
def execOrReg (x y : Nibble) (s : State) : Result := .next (s.setV x (s.getV x ||| s.getV y))

/-- 8xy2 AND Vx, Vy: no flag (R144). -/
def execAndReg (x y : Nibble) (s : State) : Result := .next (s.setV x (s.getV x &&& s.getV y))

/-- 8xy3 XOR Vx, Vy: no flag (R145). -/
def execXorReg (x y : Nibble) (s : State) : Result := .next (s.setV x (s.getV x ^^^ s.getV y))

/-- 8xy4 ADD Vx, Vy (R146). -/
def execAddReg (x y : Nibble) (s : State) : Result :=
  .next (s.setWithFlag x (s.getV x + s.getV y) (carryFlag (s.getV x) (s.getV y)))

/-- 8xy5 SUB Vx, Vy (R147). -/
def execSubReg (x y : Nibble) (s : State) : Result :=
  .next (s.setWithFlag x (s.getV x - s.getV y) (noBorrowFlag (s.getV x) (s.getV y)))

/-- 8xy6 SHR Vx: Vx in place, y is not used (R148). -/
def execShr (x : Nibble) (s : State) : Result :=
  .next (s.setWithFlag x (s.getV x >>> 1) (shiftedOutRight (s.getV x)))

/-- 8xy7 SUBN Vx, Vy (R149). -/
def execSubnReg (x y : Nibble) (s : State) : Result :=
  .next (s.setWithFlag x (s.getV y - s.getV x) (noBorrowFlag (s.getV y) (s.getV x)))

/-- 8xyE SHL Vx: Vx in place, y is not used (R150). -/
def execShl (x : Nibble) (s : State) : Result :=
  .next (s.setWithFlag x (s.getV x <<< 1) (shiftedOutLeft (s.getV x)))

/-- Cxkk RND Vx, kk (R151). -/
def execRnd (x : Nibble) (kk : Byte) (s : State) : Result := .next (s.drawByte.2.setV x (s.drawByte.1 &&& kk))

end Sys2Proof.Machine
end

