-- ==== Sys2Proof/Machine/Flow.lean ====
section
/-! DEFINITION. Control transfer (40_flow.md) and the unassigned words (R101 of 30_encoding.md). Each meaning runs after
the fetch: PC already holds the address of the next instruction, and draw is 0 (R120). -/

namespace Sys2Proof.Machine

/-- 00EE RET (R121). -/
def execRet (s : State) : Result :=
  match stackSlot Config.stackIndexPolicy s.sp with
  | none => .fault (.undefinedStackIndex s.sp)
  | some k => .next ((s.setPc (s.getStack k)).setSp (s.sp - 1#8))

/-- 1nnn JP nnn (R122). -/
def execJp (nnn : Addr) (s : State) : Result := .next (s.setPc (zextAddr nnn))

/-- 2nnn CALL nnn (R123). -/
def execCall (nnn : Addr) (s : State) : Result :=
  match stackSlot Config.stackIndexPolicy (s.sp + 1#8) with
  | none => .fault (.undefinedStackIndex (s.sp + 1#8))
  | some k => .next (((s.setSp (s.sp + 1#8)).setStack k s.pc).setPc (zextAddr nnn))

/-- 3xkk SE Vx, kk (R124). -/
def execSeImm (x : Nibble) (kk : Byte) (s : State) : Result := .next (s.skipIf (s.getV x == kk))

/-- 4xkk SNE Vx, kk (R125). -/
def execSneImm (x : Nibble) (kk : Byte) (s : State) : Result := .next (s.skipIf (s.getV x != kk))

/-- 5xy_ SE Vx, Vy (R126). -/
def execSeReg (x y : Nibble) (s : State) : Result := .next (s.skipIf (s.getV x == s.getV y))

/-- 9xy_ SNE Vx, Vy (R127). -/
def execSneReg (x y : Nibble) (s : State) : Result := .next (s.skipIf (s.getV x != s.getV y))

/-- Bnnn JP V0, nnn: the sum is not reduced to 12 bits (R128; D26, log 20). -/
def execJpV0 (nnn : Addr) (s : State) : Result := .next (s.setPc (zextByte (s.getV 0x0#4) + zextAddr nnn))

/-- An unassigned word: nothing beyond the advance of PC (R101). -/
def execNop (s : State) : Result := .next s

end Sys2Proof.Machine
end

