-- ==== Sys2Proof/Machine/IndexMemory.lean ====
section
/-! DEFINITION. Index register and memory instructions (42_index_memory.md). None of them that accesses memory changes I
(R176; D17, log 20). -/

namespace Sys2Proof.Machine

/-- Annn LD I, nnn (R170). -/
def execLdI (nnn : Addr) (s : State) : Result := .next (s.setI (zextAddr nnn))

/-- Fx1E ADD I, Vx: 16-bit wrap, no flag (R171; D18, log 20). -/
def execAddIVx (x : Nibble) (s : State) : Result := .next (s.setI (s.i + zextByte (s.getV x)))

/-- Fx29 LD F, Vx: the whole of Vx is multiplied (R172; D36, log 20). -/
def execLdFVx (x : Nibble) (s : State) : Result := .next (s.setI (5#16 * zextByte (s.getV x)))

/-- Fx33 LD B, Vx (R173). -/
def execLdBVx (x : Nibble) (s : State) : Result := s.withSpan 3 (s.storeBytes (bcdDigits (s.getV x)))

/-- Fx55 LD [I], Vx (R174). -/
def execLdMemVx (x : Nibble) (s : State) : Result :=
  s.withSpan (x.toNat + 1) (s.storeBytes (s.firstRegs (x.toNat + 1)))

/-- Fx65 LD Vx, [I] (R175). -/
def execLdVxMem (x : Nibble) (s : State) : Result :=
  s.withSpan (x.toNat + 1) (s.loadRegsFrom 0 (s.loadBytes (x.toNat + 1)))

end Sys2Proof.Machine
end

