-- ==== Sys2Proof/Machine/Input.lean ====
section
/-! DEFINITION. Keypad and timer instructions (44_input_timers.md). -/

namespace Sys2Proof.Machine

/-- Ex9E SKP Vx (R200). -/
def execSkp (x : Nibble) (s : State) : Result :=
  .next ((s.queryKey (s.getV x)).2.skipIf (s.queryKey (s.getV x)).1)

/-- ExA1 SKNP Vx (R201). -/
def execSknp (x : Nibble) (s : State) : Result :=
  .next ((s.queryKey (s.getV x)).2.skipIf (!(s.queryKey (s.getV x)).1))

/-- Fx07 LD Vx, DT (R203). -/
def execLdVxDt (x : Nibble) (s : State) : Result := .next (s.setV x s.dt)

/-- Fx0A LD Vx, K: the instruction itself only waits; the event keyDown writes the register (R202). -/
def execLdVxK (x : Nibble) (s : State) : Result := .next ((s.setWaitReg x).setRunState .blocked)

/-- Fx15 LD DT, Vx (R204). -/
def execLdDtVx (x : Nibble) (s : State) : Result := .next (s.setDt (s.getV x))

/-- Fx18 LD ST, Vx (R205). -/
def execLdStVx (x : Nibble) (s : State) : Result := .next (s.setSt (s.getV x))

end Sys2Proof.Machine
end

