-- ==== Sys2Proof/Machine/Display.lean ====
section
/-! DEFINITION. The framebuffer interface of R190 (43_display.md), and the drawing of a sprite over it (R192, R193). -/

namespace Sys2Proof.Machine

/-- `clear()` (R190): every cell clear. -/
def Framebuffer.cleared : Framebuffer := Vector.replicate 32 (Vector.replicate 64 false)

/-- `FB[y][x]` (R31); false outside the grid, where the core never looks (R79). -/
def Framebuffer.pixel (fb : Framebuffer) (x y : Nat) : Bool :=
  if h : x < 64 ∧ y < 32 then (fb[y]'h.2)[x]'h.1 else false

/-- The effect of `xor_pixel(x, y)` on the framebuffer (R190); its result `collided` is the pixel before it. -/
def Framebuffer.flip (fb : Framebuffer) (x y : Nat) : Framebuffer :=
  if h : x < 64 ∧ y < 32 then fb.set y ((fb[y]'h.2).set x (!fb.pixel x y) h.1) h.2 else fb

/-- The bit `bit` of the sprite byte `b`, most significant first, drawn at column x0 + bit of row py (R192). A pixel
outside the grid is dropped: no cell changes and nothing collides (R193; D8, log 18). -/
def drawBit (x0 py : Nat) (b : Byte) (acc : Framebuffer × Bool) (bit : Nat) : Framebuffer × Bool :=
  if b.getLsbD (7 - bit) = true ∧ x0 + bit ≤ 63 ∧ py ≤ 31 then
    (acc.1.flip (x0 + bit) py, acc.2 || acc.1.pixel (x0 + bit) py)
  else acc

/-- One sprite row: bits 0 to 7 (R192). -/
def drawRow (x0 py : Nat) (b : Byte) (acc : Framebuffer × Bool) : Framebuffer × Bool :=
  (List.range 8).foldl (drawBit x0 py b) acc

/-- The rows of a sprite, the first at row py (R192): the framebuffer, and whether a set pixel was turned off. -/
def drawRows (x0 py : Nat) : List Byte → Framebuffer × Bool → Framebuffer × Bool
  | [], acc => acc
  | b :: bs, acc => drawRows x0 (py + 1) bs (drawRow x0 py b acc)

end Sys2Proof.Machine
end

