-- ==== Sys2Proof/Machine/Screen.lean ====
section
/-! DEFINITION. Display instructions (43_display.md). -/

namespace Sys2Proof.Machine

/-- 00E0 CLS: draw stays 0 (R191). -/
def execCls (s : State) : Result := .next (s.setFb Framebuffer.cleared)

/-- The framebuffer after Dxyn and whether a set pixel was turned off: the n bytes at I drawn at the values of Vx and Vy
before VF is cleared (R192; D10, log 18). -/
def State.drawSprite (s : State) (x y n : Nibble) : Framebuffer × Bool :=
  drawRows (s.getV x).toNat (s.getV y).toNat (s.loadBytes n.toNat) (s.fb, false)

/-- Dxyn DRW Vx, Vy, n (R192). -/
def execDrw (x y n : Nibble) (s : State) : Result :=
  s.withSpan n.toNat
    (((s.setV 0xF#4 (flagByte (s.drawSprite x y n).2)).setFb (s.drawSprite x y n).1).setDraw true)

end Sys2Proof.Machine
end

