-- ==== Sys2Proof/Syntax.lean ====
section
/-! DEFINITION. The instructions: one constructor for each row of the opcode map (R100 of 30_encoding.md) and one for
the unassigned words (R101). A field that an instruction ignores is kept, so that a word and its instruction hold the
same bits (log 32). -/

namespace Sys2Proof

/-- An instruction, with its operand fields as R91 and R92 cut them out of the word. -/
inductive Instr
  /-- 00E0 CLS (R191) -/
  | cls
  /-- 00EE RET (R121) -/
  | ret
  /-- 1nnn JP nnn (R122) -/
  | jp (nnn : Addr)
  /-- 2nnn CALL nnn (R123) -/
  | call (nnn : Addr)
  /-- 3xkk SE Vx, kk (R124) -/
  | seImm (x : Nibble) (kk : Byte)
  /-- 4xkk SNE Vx, kk (R125) -/
  | sneImm (x : Nibble) (kk : Byte)
  /-- 5xy_ SE Vx, Vy (R126); the low nibble is not examined (R99) -/
  | seReg (x y low : Nibble)
  /-- 6xkk LD Vx, kk (R140) -/
  | ldImm (x : Nibble) (kk : Byte)
  /-- 7xkk ADD Vx, kk (R141) -/
  | addImm (x : Nibble) (kk : Byte)
  /-- 8xy0 LD Vx, Vy (R142) -/
  | ldReg (x y : Nibble)
  /-- 8xy1 OR Vx, Vy (R143) -/
  | orReg (x y : Nibble)
  /-- 8xy2 AND Vx, Vy (R144) -/
  | andReg (x y : Nibble)
  /-- 8xy3 XOR Vx, Vy (R145) -/
  | xorReg (x y : Nibble)
  /-- 8xy4 ADD Vx, Vy (R146) -/
  | addReg (x y : Nibble)
  /-- 8xy5 SUB Vx, Vy (R147) -/
  | subReg (x y : Nibble)
  /-- 8xy6 SHR Vx (R148); y is decoded and ignored (R103) -/
  | shr (x y : Nibble)
  /-- 8xy7 SUBN Vx, Vy (R149) -/
  | subnReg (x y : Nibble)
  /-- 8xyE SHL Vx (R150); y is decoded and ignored (R103) -/
  | shl (x y : Nibble)
  /-- 9xy_ SNE Vx, Vy (R127); the low nibble is not examined (R99) -/
  | sneReg (x y low : Nibble)
  /-- Annn LD I, nnn (R170) -/
  | ldI (nnn : Addr)
  /-- Bnnn JP V0, nnn (R128) -/
  | jpV0 (nnn : Addr)
  /-- Cxkk RND Vx, kk (R151) -/
  | rnd (x : Nibble) (kk : Byte)
  /-- Dxyn DRW Vx, Vy, n (R192) -/
  | drw (x y n : Nibble)
  /-- Ex9E SKP Vx (R200) -/
  | skp (x : Nibble)
  /-- ExA1 SKNP Vx (R201) -/
  | sknp (x : Nibble)
  /-- Fx07 LD Vx, DT (R203) -/
  | ldVxDt (x : Nibble)
  /-- Fx0A LD Vx, K (R202) -/
  | ldVxK (x : Nibble)
  /-- Fx15 LD DT, Vx (R204) -/
  | ldDtVx (x : Nibble)
  /-- Fx18 LD ST, Vx (R205) -/
  | ldStVx (x : Nibble)
  /-- Fx1E ADD I, Vx (R171) -/
  | addIVx (x : Nibble)
  /-- Fx29 LD F, Vx (R172) -/
  | ldFVx (x : Nibble)
  /-- Fx33 LD B, Vx (R173) -/
  | ldBVx (x : Nibble)
  /-- Fx55 LD [I], Vx (R174) -/
  | ldMemVx (x : Nibble)
  /-- Fx65 LD Vx, [I] (R175) -/
  | ldVxMem (x : Nibble)
  /-- any other word: NOP.unassigned (R101) -/
  | nop (word : Word)
  deriving DecidableEq, Repr

end Sys2Proof
end

