-- ==== Sys2Proof/WellFormed.lean ====
section
/-! DEFINITION. The opcode map of R100 (30_encoding.md) as the spec's match and mask columns, the row of each
instruction in it, and the check that an instruction is well formed. The decoder does not use this map: it follows the
two levels of R94, and that both agree is a claim. -/

namespace Sys2Proof

/-- A row of the opcode map (R100): the word `op` is this instruction exactly when `op &&& mask = pattern`. -/
structure OpcodeRow where
  mnemonic : String
  pattern : Word
  mask : Word
  deriving DecidableEq, Repr

/-- The word is in the row (R100). -/
def OpcodeRow.fits (r : OpcodeRow) (w : Word) : Bool :=
  w &&& r.mask == r.pattern

/-- Rows 1 to 9 of R100. -/
def opcodeMapPart1 : List OpcodeRow := [
  ⟨"CLS", 0x00E0#16, 0xFFFF#16⟩,
  ⟨"RET", 0x00EE#16, 0xFFFF#16⟩,
  ⟨"JP_nnn", 0x1000#16, 0xF000#16⟩,
  ⟨"CALL_nnn", 0x2000#16, 0xF000#16⟩,
  ⟨"SE_Vx__kk", 0x3000#16, 0xF000#16⟩,
  ⟨"SNE_Vx__kk", 0x4000#16, 0xF000#16⟩,
  ⟨"SE_Vx__Vy", 0x5000#16, 0xF000#16⟩,
  ⟨"LD_Vx__kk", 0x6000#16, 0xF000#16⟩,
  ⟨"ADD_Vx__kk", 0x7000#16, 0xF000#16⟩]

/-- Rows 10 to 18 of R100. -/
def opcodeMapPart2 : List OpcodeRow := [
  ⟨"LD_Vx__Vy", 0x8000#16, 0xF00F#16⟩,
  ⟨"OR_Vx__Vy", 0x8001#16, 0xF00F#16⟩,
  ⟨"AND_Vx__Vy", 0x8002#16, 0xF00F#16⟩,
  ⟨"XOR_Vx__Vy", 0x8003#16, 0xF00F#16⟩,
  ⟨"ADD_Vx__Vy", 0x8004#16, 0xF00F#16⟩,
  ⟨"SUB_Vx__Vy", 0x8005#16, 0xF00F#16⟩,
  ⟨"SHR_Vx", 0x8006#16, 0xF00F#16⟩,
  ⟨"SUBN_Vx__Vy", 0x8007#16, 0xF00F#16⟩,
  ⟨"SHL_Vx", 0x800E#16, 0xF00F#16⟩]

/-- Rows 19 to 27 of R100. -/
def opcodeMapPart3 : List OpcodeRow := [
  ⟨"SNE_Vx__Vy", 0x9000#16, 0xF000#16⟩,
  ⟨"LD_I__nnn", 0xA000#16, 0xF000#16⟩,
  ⟨"JP_V0__nnn", 0xB000#16, 0xF000#16⟩,
  ⟨"RND_Vx__kk", 0xC000#16, 0xF000#16⟩,
  ⟨"DRW_Vx__Vy__n", 0xD000#16, 0xF000#16⟩,
  ⟨"SKP_Vx", 0xE09E#16, 0xF0FF#16⟩,
  ⟨"SKNP_Vx", 0xE0A1#16, 0xF0FF#16⟩,
  ⟨"LD_Vx__DT", 0xF007#16, 0xF0FF#16⟩,
  ⟨"LD_Vx__K", 0xF00A#16, 0xF0FF#16⟩]

/-- Rows 28 to 34 of R100. -/
def opcodeMapPart4 : List OpcodeRow := [
  ⟨"LD_DT__Vx", 0xF015#16, 0xF0FF#16⟩,
  ⟨"LD_ST__Vx", 0xF018#16, 0xF0FF#16⟩,
  ⟨"ADD_I__Vx", 0xF01E#16, 0xF0FF#16⟩,
  ⟨"LD_F__Vx", 0xF029#16, 0xF0FF#16⟩,
  ⟨"LD_B__Vx", 0xF033#16, 0xF0FF#16⟩,
  ⟨"LD__I___Vx", 0xF055#16, 0xF0FF#16⟩,
  ⟨"LD_Vx___I", 0xF065#16, 0xF0FF#16⟩]

/-- The complete map (R100): 34 rows. -/
def opcodeMap : List OpcodeRow :=
  opcodeMapPart1 ++ opcodeMapPart2 ++ opcodeMapPart3 ++ opcodeMapPart4

/-- The word matches no row of the map (R101, R102). -/
def unassigned (w : Word) : Bool :=
  opcodeMap.all fun r => !r.fits w

/-- The row of an instruction in the map (R100); the last, that every word fits, is the table's fallback row (R101). -/
def Instr.row : Instr → OpcodeRow
  | .cls => ⟨"CLS", 0x00E0#16, 0xFFFF#16⟩
  | .ret => ⟨"RET", 0x00EE#16, 0xFFFF#16⟩
  | .jp _ => ⟨"JP_nnn", 0x1000#16, 0xF000#16⟩
  | .call _ => ⟨"CALL_nnn", 0x2000#16, 0xF000#16⟩
  | .seImm _ _ => ⟨"SE_Vx__kk", 0x3000#16, 0xF000#16⟩
  | .sneImm _ _ => ⟨"SNE_Vx__kk", 0x4000#16, 0xF000#16⟩
  | .seReg _ _ _ => ⟨"SE_Vx__Vy", 0x5000#16, 0xF000#16⟩
  | .ldImm _ _ => ⟨"LD_Vx__kk", 0x6000#16, 0xF000#16⟩
  | .addImm _ _ => ⟨"ADD_Vx__kk", 0x7000#16, 0xF000#16⟩
  | .ldReg _ _ => ⟨"LD_Vx__Vy", 0x8000#16, 0xF00F#16⟩
  | .orReg _ _ => ⟨"OR_Vx__Vy", 0x8001#16, 0xF00F#16⟩
  | .andReg _ _ => ⟨"AND_Vx__Vy", 0x8002#16, 0xF00F#16⟩
  | .xorReg _ _ => ⟨"XOR_Vx__Vy", 0x8003#16, 0xF00F#16⟩
  | .addReg _ _ => ⟨"ADD_Vx__Vy", 0x8004#16, 0xF00F#16⟩
  | .subReg _ _ => ⟨"SUB_Vx__Vy", 0x8005#16, 0xF00F#16⟩
  | .shr _ _ => ⟨"SHR_Vx", 0x8006#16, 0xF00F#16⟩
  | .subnReg _ _ => ⟨"SUBN_Vx__Vy", 0x8007#16, 0xF00F#16⟩
  | .shl _ _ => ⟨"SHL_Vx", 0x800E#16, 0xF00F#16⟩
  | .sneReg _ _ _ => ⟨"SNE_Vx__Vy", 0x9000#16, 0xF000#16⟩
  | .ldI _ => ⟨"LD_I__nnn", 0xA000#16, 0xF000#16⟩
  | .jpV0 _ => ⟨"JP_V0__nnn", 0xB000#16, 0xF000#16⟩
  | .rnd _ _ => ⟨"RND_Vx__kk", 0xC000#16, 0xF000#16⟩
  | .drw _ _ _ => ⟨"DRW_Vx__Vy__n", 0xD000#16, 0xF000#16⟩
  | .skp _ => ⟨"SKP_Vx", 0xE09E#16, 0xF0FF#16⟩
  | .sknp _ => ⟨"SKNP_Vx", 0xE0A1#16, 0xF0FF#16⟩
  | .ldVxDt _ => ⟨"LD_Vx__DT", 0xF007#16, 0xF0FF#16⟩
  | .ldVxK _ => ⟨"LD_Vx__K", 0xF00A#16, 0xF0FF#16⟩
  | .ldDtVx _ => ⟨"LD_DT__Vx", 0xF015#16, 0xF0FF#16⟩
  | .ldStVx _ => ⟨"LD_ST__Vx", 0xF018#16, 0xF0FF#16⟩
  | .addIVx _ => ⟨"ADD_I__Vx", 0xF01E#16, 0xF0FF#16⟩
  | .ldFVx _ => ⟨"LD_F__Vx", 0xF029#16, 0xF0FF#16⟩
  | .ldBVx _ => ⟨"LD_B__Vx", 0xF033#16, 0xF0FF#16⟩
  | .ldMemVx _ => ⟨"LD__I___Vx", 0xF055#16, 0xF0FF#16⟩
  | .ldVxMem _ => ⟨"LD_Vx___I", 0xF065#16, 0xF0FF#16⟩
  | .nop _ => ⟨"NOP.unassigned", 0x0000#16, 0x0000#16⟩

/-- An instruction is well formed when its fields are what its row of R100 admits. Every value of every field is legal
(R93), so that the only check is that the word a no-op carries is unassigned (R101). -/
def Instr.wf : Instr → Bool
  | .cls => true
  | .ret => true
  | .jp _ => true
  | .call _ => true
  | .seImm _ _ => true
  | .sneImm _ _ => true
  | .seReg _ _ _ => true
  | .ldImm _ _ => true
  | .addImm _ _ => true
  | .ldReg _ _ => true
  | .orReg _ _ => true
  | .andReg _ _ => true
  | .xorReg _ _ => true
  | .addReg _ _ => true
  | .subReg _ _ => true
  | .shr _ _ => true
  | .subnReg _ _ => true
  | .shl _ _ => true
  | .sneReg _ _ _ => true
  | .ldI _ => true
  | .jpV0 _ => true
  | .rnd _ _ => true
  | .drw _ _ _ => true
  | .skp _ => true
  | .sknp _ => true
  | .ldVxDt _ => true
  | .ldVxK _ => true
  | .ldDtVx _ => true
  | .ldStVx _ => true
  | .addIVx _ => true
  | .ldFVx _ => true
  | .ldBVx _ => true
  | .ldMemVx _ => true
  | .ldVxMem _ => true
  | .nop w => unassigned w

end Sys2Proof
end

