-- ==== Sys2Proof/Decode.lean ====
section
/-! DEFINITION. The decoder, in the two levels of R94 (30_encoding.md), and after it the encoder, written from the same
map (R92, R100). -/

namespace Sys2Proof

/-- The high nibble `op[15:12]`: the instruction family (R91). -/
def familyOf (op : Word) : Nibble := op.extractLsb' 12 4

/-- `x` = `op[11:8]` (R91). -/
def xOf (op : Word) : Nibble := op.extractLsb' 8 4

/-- `y` = `op[7:4]` (R91). -/
def yOf (op : Word) : Nibble := op.extractLsb' 4 4

/-- `n` = `op[3:0]` (R91). -/
def nOf (op : Word) : Nibble := op.extractLsb' 0 4

/-- `kk` = `op[7:0]` (R91). -/
def kkOf (op : Word) : Byte := op.extractLsb' 0 8

/-- `nnn` = `op[11:0]` (R91). -/
def nnnOf (op : Word) : Addr := op.extractLsb' 0 12

/-- Family 0x0: the whole word is the secondary discriminant (R95; the pairing is the spec's D15, log 16). -/
def decodeFamily0 (op : Word) : Instr :=
  match op.toNat with
  | 0x00E0 => .cls
  | 0x00EE => .ret
  | _ => .nop op

/-- Family 0x8: the low nibble is the secondary discriminant (R96). -/
def decodeFamily8 (op : Word) : Instr :=
  match (nOf op).toNat with
  | 0x0 => .ldReg (xOf op) (yOf op)
  | 0x1 => .orReg (xOf op) (yOf op)
  | 0x2 => .andReg (xOf op) (yOf op)
  | 0x3 => .xorReg (xOf op) (yOf op)
  | 0x4 => .addReg (xOf op) (yOf op)
  | 0x5 => .subReg (xOf op) (yOf op)
  | 0x6 => .shr (xOf op) (yOf op)
  | 0x7 => .subnReg (xOf op) (yOf op)
  | 0xE => .shl (xOf op) (yOf op)
  | _ => .nop op

/-- Family 0xE: the low byte is the secondary discriminant (R97). -/
def decodeFamilyE (op : Word) : Instr :=
  match (kkOf op).toNat with
  | 0x9E => .skp (xOf op)
  | 0xA1 => .sknp (xOf op)
  | _ => .nop op

/-- Family 0xF: the low byte is the secondary discriminant (R98). -/
def decodeFamilyF (op : Word) : Instr :=
  match (kkOf op).toNat with
  | 0x07 => .ldVxDt (xOf op)
  | 0x0A => .ldVxK (xOf op)
  | 0x15 => .ldDtVx (xOf op)
  | 0x18 => .ldStVx (xOf op)
  | 0x1E => .addIVx (xOf op)
  | 0x29 => .ldFVx (xOf op)
  | 0x33 => .ldBVx (xOf op)
  | 0x55 => .ldMemVx (xOf op)
  | 0x65 => .ldVxMem (xOf op)
  | _ => .nop op

/-- Decode is total: every word selects one of the 34 instructions or the no-op of R101 (R94). Families 5 and 9 do not
examine their low nibble (R99; D14, log 15). -/
def decodeWord (op : Word) : Instr :=
  match (familyOf op).toNat with
  | 0x0 => decodeFamily0 op
  | 0x1 => .jp (nnnOf op)
  | 0x2 => .call (nnnOf op)
  | 0x3 => .seImm (xOf op) (kkOf op)
  | 0x4 => .sneImm (xOf op) (kkOf op)
  | 0x5 => .seReg (xOf op) (yOf op) (nOf op)
  | 0x6 => .ldImm (xOf op) (kkOf op)
  | 0x7 => .addImm (xOf op) (kkOf op)
  | 0x8 => decodeFamily8 op
  | 0x9 => .sneReg (xOf op) (yOf op) (nOf op)
  | 0xA => .ldI (nnnOf op)
  | 0xB => .jpV0 (nnnOf op)
  | 0xC => .rnd (xOf op) (kkOf op)
  | 0xD => .drw (xOf op) (yOf op) (nOf op)
  | 0xE => decodeFamilyE op
  | _ => decodeFamilyF op

/-- Why a list of bytes is no instruction. There is no illegal word (R101), so only the length can be wrong. -/
inductive DecodeError
  /-- fewer than the two bytes that every instruction has (R90) -/
  | truncated (length : Nat)
  deriving DecidableEq, Repr

/-- A word from its two bytes: the byte at the lower address is the high byte (R65). -/
def wordOfBytes (hi lo : Byte) : Word := hi ++ lo

/-- The two bytes of a word as they lie in memory, the high byte first (R65, R90). -/
def bytesOfWord (w : Word) : List Byte := [w.extractLsb' 8 8, w.extractLsb' 0 8]

/-- The instruction at the head of a list of bytes, and the bytes after it (R65, R90). -/
def decode : List Byte → Except DecodeError (Instr × List Byte)
  | hi :: lo :: rest => .ok (decodeWord (wordOfBytes hi lo), rest)
  | short => .error (.truncated short.length)

/-- Format FA (R92). -/
def formatFA (fam : Nibble) (nnn : Addr) : Word := fam ++ nnn

/-- Format FK (R92). -/
def formatFK (fam x : Nibble) (kk : Byte) : Word := fam ++ x ++ kk

/-- Formats FR and FD (R92). -/
def formatFR (fam x y low : Nibble) : Word := fam ++ x ++ y ++ low

/-- Format FX (R92). -/
def formatFX (fam x : Nibble) (sub : Byte) : Word := fam ++ x ++ sub

/-- The word of an instruction (R92, R100). -/
def encode : Instr → Word
  | .cls => 0x00E0#16
  | .ret => 0x00EE#16
  | .jp nnn => formatFA 0x1#4 nnn
  | .call nnn => formatFA 0x2#4 nnn
  | .seImm x kk => formatFK 0x3#4 x kk
  | .sneImm x kk => formatFK 0x4#4 x kk
  | .seReg x y low => formatFR 0x5#4 x y low
  | .ldImm x kk => formatFK 0x6#4 x kk
  | .addImm x kk => formatFK 0x7#4 x kk
  | .ldReg x y => formatFR 0x8#4 x y 0x0#4
  | .orReg x y => formatFR 0x8#4 x y 0x1#4
  | .andReg x y => formatFR 0x8#4 x y 0x2#4
  | .xorReg x y => formatFR 0x8#4 x y 0x3#4
  | .addReg x y => formatFR 0x8#4 x y 0x4#4
  | .subReg x y => formatFR 0x8#4 x y 0x5#4
  | .shr x y => formatFR 0x8#4 x y 0x6#4
  | .subnReg x y => formatFR 0x8#4 x y 0x7#4
  | .shl x y => formatFR 0x8#4 x y 0xE#4
  | .sneReg x y low => formatFR 0x9#4 x y low
  | .ldI nnn => formatFA 0xA#4 nnn
  | .jpV0 nnn => formatFA 0xB#4 nnn
  | .rnd x kk => formatFK 0xC#4 x kk
  | .drw x y n => formatFR 0xD#4 x y n
  | .skp x => formatFX 0xE#4 x 0x9E#8
  | .sknp x => formatFX 0xE#4 x 0xA1#8
  | .ldVxDt x => formatFX 0xF#4 x 0x07#8
  | .ldVxK x => formatFX 0xF#4 x 0x0A#8
  | .ldDtVx x => formatFX 0xF#4 x 0x15#8
  | .ldStVx x => formatFX 0xF#4 x 0x18#8
  | .addIVx x => formatFX 0xF#4 x 0x1E#8
  | .ldFVx x => formatFX 0xF#4 x 0x29#8
  | .ldBVx x => formatFX 0xF#4 x 0x33#8
  | .ldMemVx x => formatFX 0xF#4 x 0x55#8
  | .ldVxMem x => formatFX 0xF#4 x 0x65#8
  | .nop w => w

/-- The instruction the decoder reads from a row's bits, numbered as the opcode table numbers them: the low `nbits` of
`w` in one 16-bit word, every bit above them 0, laid out as the hardware stores it and decoded (log 33). -/
def decodeTableWord (nbits w : Nat) : Option Instr :=
  match decode (bytesOfWord (BitVec.ofNat 16 (w % 2 ^ nbits))) with
  | .ok (i, []) => some i
  | _ => none

end Sys2Proof
end

