-- ==== Sys2Proof/Machine/Reset.lean ====
section
/-! DEFINITION. Reset with every open value as an argument (R45 of 10_state.md, R260 to R262 of
70_reset_and_hazards.md). -/

namespace Sys2Proof.Machine

/-- The memory in which the bytes from address 0 on are the given ones. -/
def Memory.ofBytes (bs : List Byte) : Memory := Memory.writeFrom (fun a => a) [] 0 bs

/-- The machine right after reset with the given open values (R45): GLYPHS at 0x000..0x04F, MEM_INIT from 0x050 on,
FB_INIT, KEYS_INIT and wait_reg; everything else as the spec states it. -/
def powerOn (p : ResetValues) : State where
  v := Vector.replicate 16 0x00#8
  i := 0x0000#16
  pc := BitVec.ofNat 16 Config.progStart
  sp := Config.spIdle
  stack := Vector.replicate 16 0x0000#16
  dt := 0x00#8
  st := 0x00#8
  mem := Memory.ofBytes (p.glyphs.toList ++ p.memInit.toList)
  fb := p.fbInit
  keys := p.keysInit
  runState := .running
  waitReg := p.waitInit
  draw := false
  quit := false
  started := false
  turns := []
  randIn := []
  freeCount := 0

/-- The open values that `State.reset` takes: the customary glyphs (log 2), memory 0x00 (log 1), FB clear (log 3), no key
pressed (log 4), wait_reg 0 (log 5). -/
def ResetValues.chosen : ResetValues where
  glyphs := Vector.ofFn fun k => glyphTable.getD k.val 0x00#8
  memInit := Vector.replicate 4016 0x00#8
  fbInit := Framebuffer.cleared
  keysInit := Vector.replicate 16 false
  waitInit := 0#4

/-- The event reset: the machine is constructed anew, and the inputs to come stay (R260, log 27). The counter of the free
values goes on, so that later free values are fresh. -/
def State.reconstruct (s : State) (p : ResetValues) : State :=
  { powerOn p with turns := s.turns, randIn := s.randIn, freeCount := s.freeCount }

end Sys2Proof.Machine
end

