-- ==== Sys2Proof/Machine/Snapshot.lean ====
section
/-! DEFINITION. The host operations on a program image and on a snapshot (R263, R264, R266, R267 of
70_reset_and_hazards.md). -/

namespace Sys2Proof.Machine

/-- LoadProgram, before the first core step: the image lies from 0x200 on, and nothing else changes (R263); an image above
3584 bytes is rejected (R264; D35). Once a program is running the load is refused, and memory is not written (R73, R263).
Log 24. -/
def State.loadProgram (s : State) (image : List Byte) : Result :=
  if s.started then .refused .loadWhileRunning
  else if image.length ≤ Config.maxProg then
    .next (s.setMem (s.mem.writeFrom (fun a => a) Config.progStart image))
  else .refused (.imageTooLarge image.length)

/-- The colour of a clear cell: some value that is not the colour of a set cell (R266, log 25). -/
def clearColor : BitVec 32 :=
  if Config.rawClearColor = Config.setColor then ~~~Config.setColor else Config.rawClearColor

/-- The colour the snapshot stores for a cell (R266, R44). -/
def colorOf (set : Bool) : BitVec 32 := if set then Config.setColor else clearColor

/-- Whether a colour read from a snapshot means a set cell (R267, log 25). -/
def colorIsSet (c : BitVec 32) : Bool :=
  if c = Config.setColor then true else if c = clearColor then false else Config.otherColorIsSet c

/-- The four bytes of a colour, big-endian (R266). -/
def bytesOfColor (c : BitVec 32) : List Byte :=
  [c.extractLsb' 24 8, c.extractLsb' 16 8, c.extractLsb' 8 8, c.extractLsb' 0 8]

/-- The framebuffer cell with the index 64 * y + x. -/
def Framebuffer.cell (fb : Framebuffer) (n : Fin 2048) : Bool := fb.pixel (n.val % 64) (n.val / 64)

/-- SaveState: the flat image of 12343 bytes (R266, R47). -/
def State.save (s : State) : List Byte :=
  bytesOfWord s.pc ++ [s.sp] ++ bytesOfWord s.i ++ [s.st, s.dt] ++ s.v.toList ++
    s.stack.toList.flatMap bytesOfWord ++ s.mem.readFrom (fun a => a) 0 Config.memSize ++
    (List.finRange 2048).flatMap fun n => bytesOfColor (colorOf (s.fb.cell (Config.cellOrder n)))

/-- The size of a snapshot (R266). -/
abbrev snapshotSize : Nat := 12343

/-- The byte at an offset of an image. -/
def byteAt (image : List Byte) (offset : Nat) : Byte := image.getD offset 0x00#8

/-- The big-endian 16-bit value at an offset of an image (R266). -/
def wordAt (image : List Byte) (offset : Nat) : Word := wordOfBytes (byteAt image offset) (byteAt image (offset + 1))

/-- The big-endian 32-bit colour at an offset of an image (R266). -/
def colorAt (image : List Byte) (offset : Nat) : BitVec 32 :=
  wordAt image offset ++ wordAt image (offset + 2)

/-- RestoreState: an image of the right size overwrites PC, SP, I, ST, DT, V, Stack, Memory and FB at the offsets of
R266; any other image changes nothing (R267). run_state, wait_reg, Key and the flags stay (R267; D31, log 26). -/
def State.restore (s : State) (image : List Byte) : State :=
  if image.length = snapshotSize then
    { s with
      pc := wordAt image 0
      sp := byteAt image 2
      i := wordAt image 3
      st := byteAt image 5
      dt := byteAt image 6
      v := Vector.ofFn fun k => byteAt image (7 + k.val)
      stack := Vector.ofFn fun k => wordAt image (23 + 2 * k.val)
      mem := Memory.ofBytes ((List.range Config.memSize).map fun a => byteAt image (55 + a))
      fb := Vector.ofFn fun y => Vector.ofFn fun x =>
        colorIsSet (colorAt image (4151 + 4 * (Config.cellOrder.symm ⟨64 * y.val + x.val, by omega⟩).val)) }
  else s

end Sys2Proof.Machine
end

