-- ==== Sys2Proof/Machine/Events.lean ====
section
/-! DEFINITION. The events of the environment (R227 of 60_exceptions.md): each is one atomic step between two
instructions (R228). -/

namespace Sys2Proof.Machine

/-- A timer counts down towards zero and stays there (R237). -/
def countDown (b : Byte) : Byte := if b = 0x00#8 then b else b - 1#8

/-- TimerTick: both timers count down while Running (R237); otherwise the tick is lost (R238; D27, log 22). -/
def State.tick (s : State) : State :=
  match s.runState with
  | .running => (s.setDt (countDown s.dt)).setSt (countDown s.st)
  | .blocked => s
  | .halted => s

/-- KeyDown(k): the key is down, and an Fx0A wait ends with the key code in its register (R234, R202; D12, log 21). -/
def State.keyPress (s : State) (k : Nibble) : State :=
  match s.runState with
  | .running => s.setKey k true
  | .blocked => ((s.setKey k true).setV s.waitReg (k.setWidth 8)).setRunState .running
  | .halted => s.setKey k true

/-- Quit: the flag is set and the machine halts, Blocked too (R223; D13, log 22). -/
def State.quitSignal (s : State) : State := (s.setQuit true).halt

/-- The effect of an event (R227). -/
def deliver (e : Event) (s : State) : Result :=
  match e with
  | .timerTick => .next s.tick
  | .keyDown k => .next (s.keyPress k)
  | .keyUp k => .next (s.setKey k false)
  | .setKeyState k pressed => .next (s.setKey k pressed)
  | .quit => .next s.quitSignal
  | .loadProgram image => s.loadProgram image
  | .saveState => .next s
  | .restoreState image => .next (s.restore image)
  | .reset p => .next (s.reconstruct p)

end Sys2Proof.Machine
end

