-- ==== Sys2Proof/Machine/Fetch.lean ====
section
/-! DEFINITION. The fetch (R67 of 20_memory.md) and the placing of a word where the next fetch reads it. -/

namespace Sys2Proof.Machine

/-- The fetch fails: PC > 0xFFE (R67, R222; D2, log 14), or PC is odd under a policy that Config does not choose
(R5, D1, log 13). -/
def fetchFails (oddPcHalts : Bool) (pc : Word) : Bool :=
  decide (0xFFE < pc.toNat) || (oddPcHalts && pc.getLsbD 0)

/-- `MemRead(PC, 1) :: MemRead(PC + 1, 1)`: big-endian, whatever the parity of PC (R65, R67, R68). -/
def State.fetchWord (s : State) : Word := wordOfBytes (s.mem.read s.pc.toNat) (s.mem.read (s.pc.toNat + 1))

/-- `PC <- PC + 2; draw <- 0`, before the instruction runs (R67, R23, R42); from here on a program is running (R263,
log 24). -/
def State.advance (s : State) : State := ((s.setPc (s.pc + 2#16)).setDraw false).setStarted true

/-- A PC from which a fetch succeeds: the state's own where it does, else program start. -/
def State.fetchablePc (s : State) : Word :=
  if fetchFails Config.oddPcHalts s.pc then BitVec.ofNat 16 Config.progStart else s.pc

/-- The state with the word stored where the next step fetches it, Running and with the core to move (log 28). -/
def State.placeWord (s : State) (w : Word) : State :=
  (((s.setMem (s.mem.writeFrom (fun a => a) s.fetchablePc.toNat (bytesOfWord w))).setPc s.fetchablePc).setRunState
    .running).setTurns []

end Sys2Proof.Machine
end

