-- ==== Sys2Proof/Machine/Cycle.lean ====
section
/-! DEFINITION. One step of the core (R67, R232), one turn of the machine (R9), and the repaint output (R241). -/

namespace Sys2Proof.Machine

/-- One core step (R67): a failed fetch halts and changes nothing else (R222), else the fetched word is executed. Blocked
and Halted the core does nothing (R232, R231; log 10). -/
def coreStep (s : State) : Result :=
  match s.runState with
  | .running =>
    if fetchFails Config.oddPcHalts s.pc then .next s.halt else exec (decodeWord s.fetchWord) s.advance
  | .blocked => .next s
  | .halted => .next s

/-- The turn at the head of `turns` is taken; when none is left the core moves (R9, R228; log 9). -/
def takeTurn (s : State) : Result :=
  match s.turns with
  | [] => coreStep s
  | .core :: ts => coreStep (s.setTurns ts)
  | .environment e :: ts => deliver e (s.setTurns ts)

/-- The output strobe present (R241) for a turn from `s` to `t`: at each tick, after an instruction that left draw = 1,
and after a restored snapshot (R267). R238 and R274 leave open whether a tick while Blocked or Halted repaints; here it
does, as R241 says of each tick. DESIGN CHOICE, log 29; safe: no state depends on it. -/
def presentStrobe (turn : Turn) (s t : State) : Bool :=
  match turn with
  | .core => s.runState == .running && !fetchFails Config.oddPcHalts s.pc && t.draw
  | .environment .timerTick => true
  | .environment (.restoreState image) => image.length == snapshotSize
  | .environment _ => false

end Sys2Proof.Machine
end

