-- ==== Sys2Proof/Safety.lean ====
section
/-! DEFINITION. The words in which claims speak of states and runs: the parts of a state that can be observed one at a
time and what it means that only some of them change, who moves next, the end of a run (R274), and the invariants. -/

namespace Sys2Proof.Machine

/-- One observable part of the state: a register, a byte of memory, a cell of the framebuffer, a key, a flag (R20 to R43),
or one of the model's inputs. -/
inductive Part
  | v (r : Nibble)
  | i
  | pc
  | sp
  | stack (k : Nibble)
  | dt
  | st
  | mem (a : Nat)
  | pixel (x y : Nat)
  | key (k : Nibble)
  | runState
  | waitReg
  | draw
  | quit
  | started
  | turns
  | randIn
  | freeCount
  deriving DecidableEq, Repr

/-- The part reads the same in both states. -/
def Part.same (s t : State) : Part → Prop
  | .v r => t.getV r = s.getV r
  | .i => t.i = s.i
  | .pc => t.pc = s.pc
  | .sp => t.sp = s.sp
  | .stack k => t.getStack k = s.getStack k
  | .dt => t.dt = s.dt
  | .st => t.st = s.st
  | .mem a => t.mem.read a = s.mem.read a
  | .pixel x y => t.fb.pixel x y = s.fb.pixel x y
  | .key k => t.getKey k = s.getKey k
  | .runState => t.runState = s.runState
  | .waitReg => t.waitReg = s.waitReg
  | .draw => t.draw = s.draw
  | .quit => t.quit = s.quit
  | .started => t.started = s.started
  | .turns => t.turns = s.turns
  | .randIn => t.randIn = s.randIn
  | .freeCount => t.freeCount = s.freeCount

/-- The frame: from `s` to `t` no part changes but those that `may` allows. -/
def OnlyChanges (may : Part → Prop) (s t : State) : Prop := ∀ p, ¬ may p → p.same s t

/-- No part of the state changes. -/
def Unchanged (s t : State) : Prop := OnlyChanges (fun _ => False) s t

/-- Who moves next (R9, log 9). -/
def State.mover (s : State) : Turn :=
  match s.turns with
  | [] => .core
  | t :: _ => t

/-- The state in which the mover has its turn: the turn is taken off the list. -/
def State.inTurn (s : State) : State := s.setTurns s.turns.tail

/-- The core fetches in this step: it has the turn, it is Running, and both bytes lie in memory (R67). -/
def State.fetches (s : State) : Prop := s.mover = .core ∧ s.runState = .running ∧ s.pc.toNat ≤ 0xFFE

/-- The end of a run (R274): the only final run state. -/
def State.final (s : State) : Prop := s.runState = .halted

/-- What every step keeps, from every state: memory has its canonical form (log 1), and a machine that was told to quit
has halted (R43, R223). -/
def State.Inv (s : State) : Prop := s.mem.wf ∧ (s.quit = true → s.runState = .halted)

/-- What every step keeps while the host restores no snapshot (R24, R27, R121 corner c, R267): PC and the pushed return
addresses stay small, and SP is the idle sentinel or selects an entry. -/
def State.Launched (s : State) : Prop :=
  (∀ image, Turn.environment (.restoreState image) ∉ s.turns) ∧ s.pc.toNat ≤ 0x10FE ∧
    (∀ k, (s.getStack k).toNat ≤ 0x1000) ∧ (s.sp = Config.spIdle ∨ s.sp.toNat ≤ 15)

/-- The register is named by the instruction as its destination (R20, R175). -/
def Instr.names (r : Nibble) : Instr → Prop
  | .ldImm x _ => r = x
  | .addImm x _ => r = x
  | .ldReg x _ => r = x
  | .orReg x _ => r = x
  | .andReg x _ => r = x
  | .xorReg x _ => r = x
  | .addReg x _ => r = x
  | .subReg x _ => r = x
  | .shr x _ => r = x
  | .subnReg x _ => r = x
  | .shl x _ => r = x
  | .rnd x _ => r = x
  | .ldVxDt x => r = x
  | .ldVxMem x => r ≤ x
  | .cls => False
  | .ret => False
  | .jp _ => False
  | .call _ => False
  | .seImm _ _ => False
  | .sneImm _ _ => False
  | .seReg _ _ _ => False
  | .sneReg _ _ _ => False
  | .ldI _ => False
  | .jpV0 _ => False
  | .drw _ _ _ => False
  | .skp _ => False
  | .sknp _ => False
  | .ldVxK _ => False
  | .ldDtVx _ => False
  | .ldStVx _ => False
  | .addIVx _ => False
  | .ldFVx _ => False
  | .ldBVx _ => False
  | .ldMemVx _ => False
  | .nop _ => False

end Sys2Proof.Machine
end

