-- ==== Sys2Proof/Certificates/Slice0/Obligations.lean ====
section
/-! DEFINITION. The statements for the provers. Each docstring names the rule it formalises, and the log entry or the
decision of 92_eei_decisions.md where a clause is not the source's own. -/

open Sys2Proof Sys2Proof.Machine

/-! ### Fetch, step and turns -/

/-- R67: a core step reads the two bytes at PC, high byte first, moves PC on by 2, clears draw, and runs the decoded
instruction. The bound on PC is the spec's D2 (log 14), odd PCs its D1 (log 13), turns the model's (log 9), and so is the mark `started` that a program is running
(log 24). -/
def Obligations.StepRunsTheDecodedInstruction : Prop :=
  ∀ (s : State) (i : Instr) (rest : List Byte), s.fetches →
    decode [s.mem.read s.pc.toNat, s.mem.read (s.pc.toNat + 1)] = .ok (i, rest) →
    i.wf = true ∧ step s = exec i { s.inTurn with pc := s.pc + 2#16, draw := false, started := true }

/-- R222: when PC > 0xFFE the step halts the machine, and The bound is the spec's
D2 (log 14), the turn the model's (log 9). -/
def Obligations.FailedFetchHaltsAndChangesNothingElse : Prop :=
  ∀ s : State, s.mover = .core → s.runState = .running → 0xFFE < s.pc.toNat →
    ∃ t, step s = .next t ∧ t.final ∧ t.turns = s.turns.tail ∧
      OnlyChanges (fun p => p = .runState ∨ p = .turns) s t

/-- R231: "Halted is terminal: no further instructions execute": whatever the turn, a step that is no reset stays Halted;
and, the model's form of it (log 10, DEDUCED), a turn of the core changes nothing but the turn taken. The reset event that is
left out is the model's (log 27). -/
def Obligations.HaltedIsTerminal : Prop :=
  ∀ s t : State, s.final → step s = .next t → (∀ p, s.mover ≠ .environment (.reset p)) →
    t.final ∧ (s.mover = .core → OnlyChanges (fun p => p = .turns) s t)

/-- R232, R233, R41: the whole table of run-state transitions. A step changes run_state only so: Fx0A blocks and remembers
its register; a failed fetch halts; Quit halts (Blocked too: the spec's D13, log 22); KeyDown ends the wait and writes the
register; a reset starts anew (log 27). -/
def Obligations.RunStateChangesOnlyByTheTable : Prop :=
  ∀ s t : State, step s = .next t → t.runState ≠ s.runState →
    (s.fetches ∧ t.runState = .blocked ∧
      ∃ x, decodeWord (s.mem.read s.pc.toNat ++ s.mem.read (s.pc.toNat + 1)) = .ldVxK x ∧ t.waitReg = x) ∨
    (s.mover = .core ∧ s.runState = .running ∧ 0xFFE < s.pc.toNat ∧ t.runState = .halted) ∨
    (s.mover = .environment .quit ∧ t.runState = .halted ∧ t.quit = true) ∨
    (∃ k, s.mover = .environment (.keyDown k) ∧ s.runState = .blocked ∧ t.runState = .running ∧
      t.getV s.waitReg = k.setWidth 8) ∨
    (∃ p, s.mover = .environment (.reset p) ∧ t.runState = .running)

/-- R232, R233 (the model's form of "the core has no step", log 10): when the core has the turn and is not Running, nothing
changes but the turn taken. -/
def Obligations.CoreIsIdleUnlessRunning : Prop :=
  ∀ s : State, s.mover = .core → s.runState ≠ .running →
    ∃ t, step s = .next t ∧ t.turns = s.turns.tail ∧ OnlyChanges (fun p => p = .turns) s t

/-! ### Encoding -/

/-- R90, R91, R92, R100: the decoder reads back every well-formed instruction that the encoder writes, with every operand
at every value. -/
def Obligations.DecodeOfEncodeIsTheInstruction : Prop :=
  ∀ i : Instr, i.wf = true → decodeWord (encode i) = i

/-- R94: decode is total and drops no bit: every word decodes to a well-formed instruction whose encoding is the word. -/
def Obligations.EncodeOfDecodeIsTheWord : Prop :=
  ∀ w : Word, (decodeWord w).wf = true ∧ encode (decodeWord w) = w

/-- R100: "the word `op` is this instruction exactly when `op & mask = match`": the two-level decoder selects a row of the
opcode map exactly when the word fits the row, and the no-op exactly when it fits none (R101). -/
def Obligations.DecoderSelectsTheRowThatFits : Prop :=
  ∀ w : Word, (∀ r ∈ opcodeMap, (w &&& r.mask = r.pattern ↔ (decodeWord w).row = r)) ∧
    ((∀ r ∈ opcodeMap, w &&& r.mask ≠ r.pattern) ↔ decodeWord w = .nop w)

/-- R100 (a sanity statement): words written out from the spec's encoding, one or more of each family, decode to the
instructions they stand for. -/
def Obligations.SpecWordsDecode : Prop :=
  decodeWord 0x00E0#16 = .cls ∧ decodeWord 0x2456#16 = .call 0x456#12 ∧ decodeWord 0x3A07#16 = .seImm 0xA#4 0x07#8 ∧
    decodeWord 0x8124#16 = .addReg 1#4 2#4 ∧ decodeWord 0xD015#16 = .drw 0#4 1#4 5#4 ∧
    decodeWord 0xF50A#16 = .ldVxK 5#4 ∧ decodeWord 0xF365#16 = .ldVxMem 3#4 ∧ decodeWord 0x8128#16 = .nop 0x8128#16

/-- R101: an unassigned word is a no-op: no part of the state changes beyond what the fetch changed; so a step that fetches
it moves PC on by 2, leaves draw 0, and changes nothing else of the spec's state (the turn taken and the mark `started` are
the model's, logs 9 and 24). -/
def Obligations.UnassignedWordsChangeNothing : Prop :=
  ∀ (w : Word) (s : State), (∀ r ∈ opcodeMap, w &&& r.mask ≠ r.pattern) →
    decodeWord w = .nop w ∧ (∃ t, exec (.nop w) s = .next t ∧ Unchanged s t) ∧
    (s.fetches → s.mem.read s.pc.toNat ++ s.mem.read (s.pc.toNat + 1) = w →
      ∃ t, step s = .next t ∧ t.pc.toNat = s.pc.toNat + 2 ∧ t.draw = false ∧ t.turns = s.turns.tail ∧
        t.started = true ∧ OnlyChanges (fun p => p = .pc ∨ p = .draw ∨ p = .turns ∨ p = .started) s t)

/-! ### Control transfer -/

/-- R122: JP sets PC to the address and changes nothing else. -/
def Obligations.JumpSetsPc : Prop :=
  ∀ (nnn : Addr) (s : State), decodeWord (0x1#4 ++ nnn) = .jp nnn ∧
    ∃ t, exec (.jp nnn) s = .next t ∧ t.pc.toNat = nnn.toNat ∧ OnlyChanges (fun p => p = .pc) s t

/-- R128: JP V0 sets PC to V0 + nnn, never reduced to 12 bits (the spec's D26, log 20), and changes nothing else. -/
def Obligations.JumpWithOffsetAddsV0 : Prop :=
  ∀ (nnn : Addr) (s : State), decodeWord (0xB#4 ++ nnn) = .jpV0 nnn ∧
    ∃ t, exec (.jpV0 nnn) s = .next t ∧ t.pc.toNat = (s.getV 0#4).toNat + nnn.toNat ∧
      OnlyChanges (fun p => p = .pc) s t

/-- R123: CALL moves SP up by one modulo 256, pushes PC (already past the CALL) at the new SP, and jumps; it completes
exactly when the new SP is at most 15, and is otherwise the marker UndefinedStackIndex (the spec's D3, log 11). -/
def Obligations.CallPushesTheReturnAddress : Prop :=
  ∀ (nnn : Addr) (s : State), decodeWord (0x2#4 ++ nnn) = .call nnn ∧
    (15 < (s.sp.toNat + 1) % 256 → exec (.call nnn) s = .fault (.undefinedStackIndex (s.sp + 1#8))) ∧
    ((s.sp.toNat + 1) % 256 ≤ 15 → ∃ t k, exec (.call nnn) s = .next t ∧ t.sp.toNat = (s.sp.toNat + 1) % 256 ∧
      k.toNat = t.sp.toNat ∧ t.getStack k = s.pc ∧ t.pc.toNat = nnn.toNat ∧
      OnlyChanges (fun p => p = .sp ∨ p = .stack k ∨ p = .pc) s t)

/-- R121: RET takes PC from the entry that SP selects and moves SP down by one modulo 256; the entry is not cleared. It
completes exactly when SP is at most 15, and is otherwise the marker UndefinedStackIndex (the spec's D3, log 11). -/
def Obligations.ReturnPopsTheReturnAddress : Prop :=
  decodeWord 0x00EE#16 = .ret ∧ ∀ s : State,
    (15 < s.sp.toNat → exec .ret s = .fault (.undefinedStackIndex s.sp)) ∧
    (s.sp.toNat ≤ 15 → ∃ t k, exec .ret s = .next t ∧ k.toNat = s.sp.toNat ∧ t.pc = s.getStack k ∧
      t.sp.toNat = (s.sp.toNat + 255) % 256 ∧ OnlyChanges (fun p => p = .sp ∨ p = .pc) s t)

/-- R121, R123 (the source's call and return property): wherever the subroutine has taken PC, the matching return restores
the PC and the SP of the call. -/
def Obligations.ReturnUndoesCall : Prop :=
  ∀ (nnn : Addr) (s : State) (pc : Word), (s.sp.toNat + 1) % 256 ≤ 15 →
    ∃ t u, exec (.call nnn) s = .next t ∧ exec .ret { t with pc := pc } = .next u ∧ u.pc = s.pc ∧ u.sp = s.sp

/-- R124: SE Vx, kk moves PC on by 2 more exactly when Vx = kk, and changes nothing else. -/
def Obligations.SkipIfEqualImmediate : Prop :=
  ∀ (x : Nibble) (kk : Byte) (s : State), decodeWord (0x3#4 ++ x ++ kk) = .seImm x kk ∧
    ∃ t, exec (.seImm x kk) s = .next t ∧ t.pc = (if s.getV x = kk then s.pc + 2#16 else s.pc) ∧
      OnlyChanges (fun p => p = .pc) s t

/-- R125: SNE Vx, kk moves PC on by 2 more exactly when Vx differs from kk, and changes nothing else; in every state exactly
one of the two immediate skips with these operands skips. -/
def Obligations.SkipIfNotEqualImmediate : Prop :=
  ∀ (x : Nibble) (kk : Byte) (s : State), decodeWord (0x4#4 ++ x ++ kk) = .sneImm x kk ∧
    ∃ t u, exec (.sneImm x kk) s = .next t ∧ t.pc = (if s.getV x = kk then s.pc else s.pc + 2#16) ∧
      OnlyChanges (fun p => p = .pc) s t ∧ exec (.seImm x kk) s = .next u ∧ (t.pc = s.pc ↔ u.pc ≠ s.pc)

/-- R126, R127: SE Vx, Vy and SNE Vx, Vy, with every value of the low nibble, which is not examined (the spec's D14,
log 15). -/
def Obligations.SkipsOnRegisters : Prop :=
  ∀ (x y low : Nibble) (s : State), decodeWord (0x5#4 ++ x ++ y ++ low) = .seReg x y low ∧
    decodeWord (0x9#4 ++ x ++ y ++ low) = .sneReg x y low ∧
    (∃ t, exec (.seReg x y low) s = .next t ∧ t.pc = (if s.getV x = s.getV y then s.pc + 2#16 else s.pc) ∧
      OnlyChanges (fun p => p = .pc) s t) ∧
    ∃ t, exec (.sneReg x y low) s = .next t ∧ t.pc = (if s.getV x = s.getV y then s.pc else s.pc + 2#16) ∧
      OnlyChanges (fun p => p = .pc) s t

/-! ### Registers and ALU -/

/-- R140: LD Vx, kk writes kk to Vx and changes nothing else. -/
def Obligations.LoadImmediate : Prop :=
  ∀ (x : Nibble) (kk : Byte) (s : State), decodeWord (0x6#4 ++ x ++ kk) = .ldImm x kk ∧
    ∃ t, exec (.ldImm x kk) s = .next t ∧ t.getV x = kk ∧ OnlyChanges (fun p => p = .v x) s t

/-- R141: ADD Vx, kk wraps modulo 256 and writes no flag. -/
def Obligations.AddImmediateWrapsWithoutFlag : Prop :=
  ∀ (x : Nibble) (kk : Byte) (s : State), decodeWord (0x7#4 ++ x ++ kk) = .addImm x kk ∧
    ∃ t, exec (.addImm x kk) s = .next t ∧ (t.getV x).toNat = ((s.getV x).toNat + kk.toNat) % 256 ∧
      OnlyChanges (fun p => p = .v x) s t

/-- R142, R143, R144, R145: the copy and the three bitwise operations, bit by bit; VF is written only as Vx. -/
def Obligations.CopyAndBitwiseOperations : Prop :=
  ∀ (x y : Nibble) (s : State),
    (decodeWord (0x8#4 ++ x ++ y ++ 0x0#4) = .ldReg x y ∧ ∃ t, exec (.ldReg x y) s = .next t ∧
      t.getV x = s.getV y ∧ OnlyChanges (fun p => p = .v x) s t) ∧
    (decodeWord (0x8#4 ++ x ++ y ++ 0x1#4) = .orReg x y ∧ ∃ t, exec (.orReg x y) s = .next t ∧
      (∀ j, (t.getV x).getLsbD j = ((s.getV x).getLsbD j || (s.getV y).getLsbD j)) ∧
      OnlyChanges (fun p => p = .v x) s t) ∧
    (decodeWord (0x8#4 ++ x ++ y ++ 0x2#4) = .andReg x y ∧ ∃ t, exec (.andReg x y) s = .next t ∧
      (∀ j, (t.getV x).getLsbD j = ((s.getV x).getLsbD j && (s.getV y).getLsbD j)) ∧
      OnlyChanges (fun p => p = .v x) s t) ∧
    (decodeWord (0x8#4 ++ x ++ y ++ 0x3#4) = .xorReg x y ∧ ∃ t, exec (.xorReg x y) s = .next t ∧
      (∀ j, (t.getV x).getLsbD j = ((s.getV x).getLsbD j ^^ (s.getV y).getLsbD j)) ∧
      OnlyChanges (fun p => p = .v x) s t)

/-- R146: ADD Vx, Vy wraps modulo 256, and VF is the carry. With x = 15 the flag stays in VF (R153, the spec's D9,
log 17). -/
def Obligations.AddSetsCarry : Prop :=
  ∀ (x y : Nibble) (s : State), decodeWord (0x8#4 ++ x ++ y ++ 0x4#4) = .addReg x y ∧
    ∃ t, exec (.addReg x y) s = .next t ∧
      (x ≠ 15#4 → (t.getV x).toNat = ((s.getV x).toNat + (s.getV y).toNat) % 256) ∧
      (t.getV 15#4).toNat = (if 255 < (s.getV x).toNat + (s.getV y).toNat then 1 else 0) ∧
      OnlyChanges (fun p => p = .v x ∨ p = .v 15#4) s t

/-- R147, R149: SUB and SUBN wrap modulo 256, and VF is the strict comparison, 0 for equal operands. With x = 15 the flag
stays in VF (R153, the spec's D9, log 17). -/
def Obligations.SubtractionsSetNoBorrow : Prop :=
  ∀ (x y : Nibble) (s : State), decodeWord (0x8#4 ++ x ++ y ++ 0x5#4) = .subReg x y ∧
    decodeWord (0x8#4 ++ x ++ y ++ 0x7#4) = .subnReg x y ∧
    (∃ t, exec (.subReg x y) s = .next t ∧
      (x ≠ 15#4 → ((t.getV x).toNat : Int) = (((s.getV x).toNat : Int) - (s.getV y).toNat) % 256) ∧
      (t.getV 15#4).toNat = (if (s.getV y).toNat < (s.getV x).toNat then 1 else 0) ∧
      OnlyChanges (fun p => p = .v x ∨ p = .v 15#4) s t) ∧
    ∃ t, exec (.subnReg x y) s = .next t ∧
      (x ≠ 15#4 → ((t.getV x).toNat : Int) = (((s.getV y).toNat : Int) - (s.getV x).toNat) % 256) ∧
      (t.getV 15#4).toNat = (if (s.getV x).toNat < (s.getV y).toNat then 1 else 0) ∧
      OnlyChanges (fun p => p = .v x ∨ p = .v 15#4) s t

/-- R148, R150: SHR and SHL shift Vx in place by one, whatever y, and VF is the bit that left. With x = 15 the flag stays
in VF (R153, the spec's D9, log 17). -/
def Obligations.ShiftsSetTheBitMovedOut : Prop :=
  ∀ (x y : Nibble) (s : State), decodeWord (0x8#4 ++ x ++ y ++ 0x6#4) = .shr x y ∧
    decodeWord (0x8#4 ++ x ++ y ++ 0xE#4) = .shl x y ∧
    (∃ t, exec (.shr x y) s = .next t ∧ (x ≠ 15#4 → (t.getV x).toNat = (s.getV x).toNat / 2) ∧
      (t.getV 15#4).toNat = (s.getV x).toNat % 2 ∧ OnlyChanges (fun p => p = .v x ∨ p = .v 15#4) s t) ∧
    ∃ t, exec (.shl x y) s = .next t ∧ (x ≠ 15#4 → (t.getV x).toNat = 2 * (s.getV x).toNat % 256) ∧
      (t.getV 15#4).toNat = (s.getV x).toNat / 128 ∧ OnlyChanges (fun p => p = .v x ∨ p = .v 15#4) s t

/-- R151: RND writes the sampled byte masked by kk: the byte at rand_in where one is queued, else the free value of this
execution (log 7); only bits of kk can be set, and no flag is written. -/
def Obligations.RandomByteIsMasked : Prop :=
  ∀ (x : Nibble) (kk : Byte) (s : State), decodeWord (0xC#4 ++ x ++ kk) = .rnd x kk ∧
    ∃ t, exec (.rnd x kk) s = .next t ∧ t.getV x &&& ~~~kk = 0#8 ∧
      (∀ r rs, s.randIn = r :: rs → t.getV x = r &&& kk ∧ t.randIn = rs ∧ t.freeCount = s.freeCount) ∧
      (s.randIn = [] → t.getV x = Config.freeByte s.freeCount &&& kk ∧ t.randIn = [] ∧ s.freeCount < t.freeCount) ∧
      OnlyChanges (fun p => p = .v x ∨ p = .randIn ∨ p = .freeCount) s t

/-- R21: "The instructions that write VF as a flag are exactly" ADD, SUB, SHR, SUBN, SHL and DRW: any instruction that
changes a register either names it as its destination or is one of these and the register is VF. -/
def Obligations.RegisterWriters : Prop :=
  ∀ (i : Instr) (s t : State) (r : Nibble), exec i s = .next t → t.getV r ≠ s.getV r →
    Instr.names r i ∨ (r = 15#4 ∧ ((∃ x y, i = .addReg x y) ∨ (∃ x y, i = .subReg x y) ∨ (∃ x y, i = .shr x y) ∨
      (∃ x y, i = .subnReg x y) ∨ (∃ x y, i = .shl x y) ∨ ∃ x y n, i = .drw x y n))

/-! ### Index register and memory -/

/-- R170: LD I, nnn writes the address to I, extended by zero, and changes nothing else. -/
def Obligations.LoadIndex : Prop :=
  ∀ (nnn : Addr) (s : State), decodeWord (0xA#4 ++ nnn) = .ldI nnn ∧
    ∃ t, exec (.ldI nnn) s = .next t ∧ t.i.toNat = nnn.toNat ∧ OnlyChanges (fun p => p = .i) s t

/-- R171, R172: ADD I, Vx wraps at 16 bits and writes no flag (the spec's D18); LD F, Vx writes five times the whole of Vx
(the spec's D36). Log 20. -/
def Obligations.AddToIndexAndGlyphAddress : Prop :=
  ∀ (x : Nibble) (s : State), decodeWord (0xF#4 ++ x ++ 0x1E#8) = .addIVx x ∧
    decodeWord (0xF#4 ++ x ++ 0x29#8) = .ldFVx x ∧
    (∃ t, exec (.addIVx x) s = .next t ∧ t.i.toNat = (s.i.toNat + (s.getV x).toNat) % 65536 ∧
      OnlyChanges (fun p => p = .i) s t) ∧
    ∃ t, exec (.ldFVx x) s = .next t ∧ t.i.toNat = 5 * (s.getV x).toNat ∧ OnlyChanges (fun p => p = .i) s t

/-- R173: Fx33 stores the three decimal digits of Vx at I, I + 1, I + 2, hundreds first (the spec's D16, log 19), and
changes nothing else, I included; it completes when I + 2 <= 0xFFF. -/
def Obligations.StoreBcd : Prop :=
  ∀ (x : Nibble) (s : State), decodeWord (0xF#4 ++ x ++ 0x33#8) = .ldBVx x ∧
    (s.mem.wf → s.i.toNat + 2 ≤ 0xFFF → ∃ t, exec (.ldBVx x) s = .next t ∧
      (t.mem.read s.i.toNat).toNat = (s.getV x).toNat / 100 ∧
      (t.mem.read (s.i.toNat + 1)).toNat = (s.getV x).toNat / 10 % 10 ∧
      (t.mem.read (s.i.toNat + 2)).toNat = (s.getV x).toNat % 10 ∧
      OnlyChanges (fun p => ∃ k, k < 3 ∧ p = .mem (s.dataAddr k)) s t)

/-- R174: Fx55 stores V0..Vx from I on, ascending, and changes nothing else, I included; it completes when
I + x <= 0xFFF. -/
def Obligations.StoreRegisters : Prop :=
  ∀ (x : Nibble) (s : State), decodeWord (0xF#4 ++ x ++ 0x55#8) = .ldMemVx x ∧
    (s.mem.wf → s.i.toNat + x.toNat ≤ 0xFFF → ∃ t, exec (.ldMemVx x) s = .next t ∧
      (∀ r : Nibble, r.toNat ≤ x.toNat → t.mem.read (s.dataAddr r.toNat) = s.getV r) ∧
      OnlyChanges (fun p => ∃ k, k ≤ x.toNat ∧ p = .mem (s.dataAddr k)) s t)

/-- R175: Fx65 loads V0..Vx from I on, ascending; registers above Vx, memory and I are unchanged; it completes when
I + x <= 0xFFF. -/
def Obligations.LoadRegisters : Prop :=
  ∀ (x : Nibble) (s : State), decodeWord (0xF#4 ++ x ++ 0x65#8) = .ldVxMem x ∧
    (s.i.toNat + x.toNat ≤ 0xFFF → ∃ t, exec (.ldVxMem x) s = .next t ∧
      (∀ r : Nibble, r.toNat ≤ x.toNat → t.getV r = s.mem.read (s.dataAddr r.toNat)) ∧
      OnlyChanges (fun p => ∃ r : Nibble, r.toNat ≤ x.toNat ∧ p = .v r) s t)

/-- R174, R175 (derived): what Fx55 stored, Fx65 loads back, whatever the registers held in between. -/
def Obligations.LoadUndoesStore : Prop :=
  ∀ (x : Nibble) (s t : State) (v : Vector Byte 16), s.mem.wf → exec (.ldMemVx x) s = .next t →
    ∃ u, exec (.ldVxMem x) { t with v := v } = .next u ∧
      ∀ r : Nibble, (r.toNat ≤ x.toNat → u.getV r = s.getV r) ∧ (x.toNat < r.toNat → u.getV r = v[r.toNat]'r.isLt)

/-- R63, R176: the four instructions that access memory are checked as a whole before any effect: past 0xFFF they are the
marker UndefinedDataAddress with the highest address (the spec's D4 and D30, log 12). -/
def Obligations.AccessPastMemoryIsUndefined : Prop :=
  ∀ (x y n : Nibble) (s : State),
    (0xFFF < s.i.toNat + 2 → exec (.ldBVx x) s = .fault (.undefinedDataAddress (s.i.toNat + 2))) ∧
    (0xFFF < s.i.toNat + x.toNat → exec (.ldMemVx x) s = .fault (.undefinedDataAddress (s.i.toNat + x.toNat)) ∧
      exec (.ldVxMem x) s = .fault (.undefinedDataAddress (s.i.toNat + x.toNat))) ∧
    (n ≠ 0#4 → 0xFFF < s.i.toNat + n.toNat - 1 →
      exec (.drw x y n) s = .fault (.undefinedDataAddress (s.i.toNat + n.toNat - 1)))

/-- R221, R224, R225: no instruction is refused, and only CALL, RET and the four that access memory can meet a condition,
each its own marker. -/
def Obligations.OnlyTheTwoMarkersStopAnInstruction : Prop :=
  ∀ (i : Instr) (s : State), (∃ t, exec i s = .next t) ∨
    ((i = .ret ∨ ∃ nnn, i = .call nnn) ∧ ∃ k : Byte, 15 < k.toNat ∧ exec i s = .fault (.undefinedStackIndex k)) ∨
    (((∃ x, i = .ldBVx x) ∨ (∃ x, i = .ldMemVx x) ∨ (∃ x, i = .ldVxMem x) ∨ ∃ x y n, i = .drw x y n) ∧
      ∃ a, 0xFFF < a ∧ exec i s = .fault (.undefinedDataAddress a))

/-- R76 (the spec's D23, log 30): a store by Fx55 over the next instruction is seen by its fetch: the step after the store
decodes the stored bytes. -/
def Obligations.StoreIsSeenByTheNextFetch : Prop :=
  ∀ (s t : State) (x k : Nibble), s.mem.wf → s.fetches → s.turns = [] →
    decodeWord (s.mem.read s.pc.toNat ++ s.mem.read (s.pc.toNat + 1)) = .ldMemVx x → step s = .next t →
    k.toNat + 1 ≤ x.toNat → s.pc.toNat + 2 = s.dataAddr k.toNat → t.fetches →
    step t = exec (decodeWord (s.getV k ++ s.getV (k + 1#4))) { t with pc := t.pc + 2#16, draw := false, started := true }

/-! ### Display -/

/-- R191: CLS clears every cell; VF, draw and everything else stay. -/
def Obligations.ClearScreen : Prop :=
  decodeWord 0x00E0#16 = .cls ∧ ∀ s : State, ∃ t, exec .cls s = .next t ∧
    (∀ x y, t.fb.pixel x y = false) ∧ OnlyChanges (fun p => ∃ x y, p = .pixel x y) s t

/-- The sprite pixel of Dxyn at column px and row py in closed form (R192, R193): inside the grid, and the bit of the byte
at I + row, most significant bit leftmost. -/
def spritePixel (s : State) (x y n : Nibble) (px py : Nat) : Bool :=
  decide (px < 64 ∧ py < 32 ∧ (s.getV x).toNat ≤ px ∧ px < (s.getV x).toNat + 8 ∧ (s.getV y).toNat ≤ py ∧
    py < (s.getV y).toNat + n.toNat) &&
  (s.mem.read (s.dataAddr (py - (s.getV y).toNat))).getLsbD (7 - (px - (s.getV x).toNat))

/-- R192, R193: DRW turns every cell that the sprite covers; VF is 1 exactly when a set cell was turned off; draw becomes
1; nothing else changes, I and memory included. Dropped pixels are the spec's D8, the coordinates before VF is cleared its
D10, n = 0 its D37 (log 18). -/
def Obligations.DrawSpriteExclusiveOr : Prop :=
  ∀ (x y n : Nibble) (s : State), decodeWord (0xD#4 ++ x ++ y ++ n) = .drw x y n ∧
    (n = 0#4 ∨ s.i.toNat + n.toNat - 1 ≤ 0xFFF → ∃ t, exec (.drw x y n) s = .next t ∧
      (∀ px py, t.fb.pixel px py = (s.fb.pixel px py ^^ spritePixel s x y n px py)) ∧
      (t.getV 15#4 = 1#8 ∨ t.getV 15#4 = 0#8) ∧
      (t.getV 15#4 = 1#8 ↔ ∃ px py, s.fb.pixel px py = true ∧ spritePixel s x y n px py = true) ∧
      t.draw = true ∧
      OnlyChanges (fun p => p = .v 15#4 ∨ p = .draw ∨ ∃ px py, p = .pixel px py ∧ spritePixel s x y n px py = true) s t)

/-- R192 corner case b: the same sprite drawn twice at the same place restores the framebuffer; on a screen that was clear
the second draw reports a collision exactly when the sprite has a set bit inside the grid. The place is held in registers
that the first draw does not write (x, y not 15). -/
def Obligations.DrawingTwiceRestoresTheScreen : Prop :=
  ∀ (x y n : Nibble) (s t u : State), x ≠ 15#4 → y ≠ 15#4 → exec (.drw x y n) s = .next t →
    exec (.drw x y n) t = .next u →
    u.fb = s.fb ∧ ((∀ px py, s.fb.pixel px py = false) →
      (u.getV 15#4 = 1#8 ↔ ∃ px py, spritePixel s x y n px py = true))

/-! ### Keypad and timers -/

/-- R200, R201: SKP skips exactly when the key of Vx is down, SKNP exactly when it is up, for a key code up to 15. Above 15
the answer is a free value (the spec's D11, log 8): each skips or not, and nothing else of the spec's state changes. -/
def Obligations.KeySkips : Prop :=
  ∀ (x : Nibble) (s : State), decodeWord (0xE#4 ++ x ++ 0x9E#8) = .skp x ∧
    decodeWord (0xE#4 ++ x ++ 0xA1#8) = .sknp x ∧ ∃ t u, exec (.skp x) s = .next t ∧ exec (.sknp x) s = .next u ∧
    (∀ k : Nibble, s.getV x = k.setWidth 8 →
      t.pc = (if s.getKey k = true then s.pc + 2#16 else s.pc) ∧ u.pc = (if s.getKey k = true then s.pc else s.pc + 2#16) ∧
      t.freeCount = s.freeCount ∧ u.freeCount = s.freeCount) ∧
    (15 < (s.getV x).toNat →
      t.pc = (if Config.freeKey s.freeCount = true then s.pc + 2#16 else s.pc) ∧
      u.pc = (if Config.freeKey s.freeCount = true then s.pc else s.pc + 2#16) ∧
      s.freeCount < t.freeCount ∧ s.freeCount < u.freeCount) ∧
    OnlyChanges (fun p => p = .pc ∨ p = .freeCount) s t ∧ OnlyChanges (fun p => p = .pc ∨ p = .freeCount) s u

/-- R202: Fx0A itself blocks and remembers its register, and changes nothing else. -/
def Obligations.WaitForKeyBlocks : Prop :=
  ∀ (x : Nibble) (s : State), decodeWord (0xF#4 ++ x ++ 0x0A#8) = .ldVxK x ∧
    ∃ t, exec (.ldVxK x) s = .next t ∧ t.runState = .blocked ∧ t.waitReg = x ∧
      OnlyChanges (fun p => p = .runState ∨ p = .waitReg) s t

/-- R234, R235, R242 (D12, D33, logs 21 and 23; the event is the head of `turns`, log 9): KeyDown sets the key and, when the machine is Blocked, writes the code to
the register of the wait and resumes; KeyUp clears the key; set_key_state sets or clears it and ends no wait. Nothing else
changes. -/
def Obligations.KeyEvents : Prop :=
  ∀ (s : State) (k : Nibble) (ts : List Turn),
    (s.turns = .environment (.keyDown k) :: ts → s.runState ≠ .blocked → ∃ t, step s = .next t ∧ t.getKey k = true ∧
      t.turns = ts ∧ OnlyChanges (fun p => p = .key k ∨ p = .turns) s t) ∧
    (s.turns = .environment (.keyDown k) :: ts → s.runState = .blocked → ∃ t, step s = .next t ∧ t.getKey k = true ∧
      (t.getV s.waitReg).toNat = k.toNat ∧ t.runState = .running ∧ t.turns = ts ∧
      OnlyChanges (fun p => p = .key k ∨ p = .v s.waitReg ∨ p = .runState ∨ p = .turns) s t) ∧
    (s.turns = .environment (.keyUp k) :: ts → ∃ t, step s = .next t ∧ t.getKey k = false ∧ t.turns = ts ∧
      OnlyChanges (fun p => p = .key k ∨ p = .turns) s t) ∧
    ∀ b, s.turns = .environment (.setKeyState k b) :: ts → ∃ t, step s = .next t ∧ t.getKey k = b ∧ t.turns = ts ∧
      OnlyChanges (fun p => p = .key k ∨ p = .turns) s t

/-- R203, R204, R205: the timer moves: Vx takes DT, DT takes Vx, ST takes Vx, and nothing else changes. -/
def Obligations.TimerMoves : Prop :=
  ∀ (x : Nibble) (s : State),
    (decodeWord (0xF#4 ++ x ++ 0x07#8) = .ldVxDt x ∧ ∃ t, exec (.ldVxDt x) s = .next t ∧ t.getV x = s.dt ∧
      OnlyChanges (fun p => p = .v x) s t) ∧
    (decodeWord (0xF#4 ++ x ++ 0x15#8) = .ldDtVx x ∧ ∃ t, exec (.ldDtVx x) s = .next t ∧ t.dt = s.getV x ∧
      OnlyChanges (fun p => p = .dt) s t) ∧
    (decodeWord (0xF#4 ++ x ++ 0x18#8) = .ldStVx x ∧ ∃ t, exec (.ldStVx x) s = .next t ∧ t.st = s.getV x ∧
      (t.toneOn = true ↔ s.getV x ≠ 0#8) ∧ OnlyChanges (fun p => p = .st) s t)

/-- R237: a TimerTick while Running takes one from each timer that is not zero, and changes nothing else but the turn taken.
That the tick is the head of `turns` is the model's form of an event (DESIGN CHOICE, log 9). -/
def Obligations.TimerTickCountsDown : Prop :=
  ∀ (s : State) (ts : List Turn), s.turns = .environment .timerTick :: ts → s.runState = .running →
    ∃ t, step s = .next t ∧ t.dt.toNat = s.dt.toNat - 1 ∧ t.st.toNat = s.st.toNat - 1 ∧ t.turns = ts ∧
      OnlyChanges (fun p => p = .dt ∨ p = .st ∨ p = .turns) s t

/-- R238 (while Halted the spec's D27, log 22; the event is the head of `turns`, log 9): a tick in a machine that is not Running is lost. -/
def Obligations.TicksAreLostUnlessRunning : Prop :=
  ∀ (s : State) (ts : List Turn), s.turns = .environment .timerTick :: ts → s.runState ≠ .running →
    ∃ t, step s = .next t ∧ t.turns = ts ∧ OnlyChanges (fun p => p = .turns) s t

/-- R223 (the poll is fused with the signal, log 22; the event is the head of `turns`, log 9): Quit sets the flag and halts, from every run state, and nothing else
changes. -/
def Obligations.QuitHalts : Prop :=
  ∀ (s : State) (ts : List Turn), s.turns = .environment .quit :: ts →
    ∃ t, step s = .next t ∧ t.quit = true ∧ t.final ∧ t.turns = ts ∧
      OnlyChanges (fun p => p = .quit ∨ p = .runState ∨ p = .turns) s t

/-! ### Whole-machine rules -/

/-- R22, R23, R26, R27, R28, R30: no instruction changes PC but RET, JP, CALL, the skips and JP V0; none changes I but
Annn, Fx1E and Fx29; none changes SP but CALL and RET; none changes the stack but CALL; none changes DT but Fx15, nor ST
but Fx18. -/
def Obligations.SpecialRegisterWriters : Prop :=
  ∀ (i : Instr) (s t : State), exec i s = .next t →
    (t.pc ≠ s.pc → i = .ret ∨ (∃ nnn, i = .jp nnn ∨ i = .call nnn ∨ i = .jpV0 nnn) ∨
      (∃ x kk, i = .seImm x kk ∨ i = .sneImm x kk) ∨ (∃ x y low, i = .seReg x y low ∨ i = .sneReg x y low) ∨
      ∃ x, i = .skp x ∨ i = .sknp x) ∧
    (t.i ≠ s.i → (∃ nnn, i = .ldI nnn) ∨ ∃ x, i = .addIVx x ∨ i = .ldFVx x) ∧
    (t.sp ≠ s.sp → i = .ret ∨ ∃ nnn, i = .call nnn) ∧ (t.stack ≠ s.stack → ∃ nnn, i = .call nnn) ∧
    (t.dt ≠ s.dt → ∃ x, i = .ldDtVx x) ∧ (t.st ≠ s.st → ∃ x, i = .ldStVx x)

/-- R29, R31, R73: no instruction changes a byte of memory but Fx33 and Fx55, and they only inside the bytes they store to;
none changes a cell of the framebuffer but CLS and DRW. -/
def Obligations.MemoryAndScreenWriters : Prop :=
  ∀ (i : Instr) (s t : State), exec i s = .next t →
    (∀ a, t.mem.read a ≠ s.mem.read a → (∃ x, i = .ldBVx x ∧ s.i.toNat ≤ a ∧ a ≤ s.i.toNat + 2) ∨
      ∃ x, i = .ldMemVx x ∧ s.i.toNat ≤ a ∧ a ≤ s.i.toNat + x.toNat) ∧
    (t.fb ≠ s.fb → i = .cls ∨ ∃ x y n, i = .drw x y n)

/-- R32, R40, R42, R43: no instruction changes the key state or the quit flag; run_state and wait_reg change only by Fx0A;
after a core step that fetched, draw is 1 exactly when the instruction was Dxyn. -/
def Obligations.RunLoopStateWriters : Prop :=
  (∀ (i : Instr) (s t : State), exec i s = .next t → t.keys = s.keys ∧ t.quit = s.quit ∧ t.started = s.started ∧
    t.turns = s.turns ∧
    (t.runState ≠ s.runState ∨ t.waitReg ≠ s.waitReg → ∃ x, i = .ldVxK x)) ∧
  ∀ s t : State, s.fetches → step s = .next t →
    (t.draw = true ↔ ∃ x y n, decodeWord (s.mem.read s.pc.toNat ++ s.mem.read (s.pc.toNat + 1)) = .drw x y n)

/-- R23, R120 (derived): the advance never wraps: a step that fetches leaves PC 2 on, or it is a skip and leaves PC 2 or 4
on, or it is a jump, a call or a return. -/
def Obligations.SequentialStepsAdvanceByTwo : Prop :=
  ∀ (s t : State) (i : Instr), s.fetches → step s = .next t →
    decodeWord (s.mem.read s.pc.toNat ++ s.mem.read (s.pc.toNat + 1)) = i →
    t.pc.toNat = s.pc.toNat + 2 ∨
    (t.pc.toNat = s.pc.toNat + 4 ∧ ((∃ x kk, i = .seImm x kk ∨ i = .sneImm x kk) ∨
      (∃ x y low, i = .seReg x y low ∨ i = .sneReg x y low) ∨ ∃ x, i = .skp x ∨ i = .sknp x)) ∨
    i = .ret ∨ ∃ nnn, i = .jp nnn ∨ i = .call nnn ∨ i = .jpV0 nnn

/-! ### Invariants and reset -/

/-- Every step, of the core or of the environment, keeps the memory canonical and keeps a machine that was told to quit
halted. The canonical form is the model's (log 1); that quit means Halted is the model's choice too, which fuses the poll
with the signal where R43 and R223 let quit be set until the next poll (DESIGN CHOICE, log 22; D13 for Blocked). -/
def Obligations.StepKeepsCanonicalMemoryAndQuit : Prop :=
  ∀ s t : State, s.Inv → step s = .next t → t.Inv

/-- While the host restores no snapshot, every step keeps PC at most 0x10FE, every stack entry at most 0x1000, and SP idle
or at most 15 (R24, R27, R121 corner case c, R128, R267). -/
def Obligations.StepKeepsLaunchedBounds : Prop :=
  ∀ s t : State, s.Launched → step s = .next t → t.Launched

/-- The invariants hold right after reset, whatever the open values, and in `State.reset` (R45; logs 1 to 5). -/
def Obligations.ResetMeetsTheInvariants : Prop :=
  (∀ p : ResetValues, (powerOn p).Inv ∧ (powerOn p).Launched) ∧ State.reset.Inv ∧ State.reset.Launched

/-- R45, R261: what reset leaves, for every choice of the open values. DT, ST, draw and quit rest on the spec's D32
(log 6), and that no program is running yet is the model's mark (log 24). -/
def Obligations.ResetLeavesTheStatedValues : Prop :=
  ∀ p : ResetValues,
    (∀ r, (powerOn p).getV r = 0#8) ∧ (powerOn p).i = 0#16 ∧ (powerOn p).pc = 0x0200#16 ∧ (powerOn p).sp = 0xFF#8 ∧
    (∀ k, (powerOn p).getStack k = 0#16) ∧ (powerOn p).dt = 0#8 ∧ (powerOn p).st = 0#8 ∧
    (∀ a : Fin 80, (powerOn p).mem.read a.val = p.glyphs[a.val]) ∧
    (∀ a : Fin 4016, (powerOn p).mem.read (0x050 + a.val) = p.memInit[a.val]) ∧
    (powerOn p).runState = .running ∧ (powerOn p).draw = false ∧ (powerOn p).quit = false ∧
    (powerOn p).started = false

/-- The model's choice (logs 1 to 5): `State.reset` is the reset state with the customary glyphs, every other byte 0x00,
the framebuffer clear, no key pressed and wait_reg 0. -/
def Obligations.ResetIsPowerOnWithTheChosenValues : Prop :=
  State.reset = powerOn ResetValues.chosen

/-! ### Host operations -/

/-- R263, R264: before the first core step LoadProgram places the image from 0x200 on and changes nothing else; an image
above 3584 bytes is rejected (the spec's D35, log 24). Once a program is running a load has no meaning and is refused (R263,
R73, log 24). The event is the head of `turns` (log 9). -/
def Obligations.LoadProgramPlacesTheImage : Prop :=
  ∀ (s : State) (image : List Byte) (ts : List Turn), s.turns = .environment (.loadProgram image) :: ts →
    (s.started = true → step s = .refused .loadWhileRunning) ∧
    (s.started = false → 3584 < image.length → step s = .refused (.imageTooLarge image.length)) ∧
    (s.started = false → s.mem.wf → image.length ≤ 3584 → ∃ t, step s = .next t ∧ t.turns = ts ∧
      (∀ k (h : k < image.length), t.mem.read (0x200 + k) = image[k]) ∧
      OnlyChanges (fun p => p = .turns ∨ ∃ k, k < image.length ∧ p = .mem (0x200 + k)) s t)

/-- R266: SaveState changes no state, and its image has 12343 bytes at the offsets of the table, 16-bit values and colours
big-endian; which cell comes n-th and the two colours are free values, the model's choice (DESIGN CHOICE, log 25). run_state, wait_reg, draw, quit and Key are
not saved. -/
def Obligations.SnapshotLayout : Prop :=
  ∀ s : State, deliver .saveState s = .next s ∧ s.save.length = 12343 ∧
    wordAt s.save 0 = s.pc ∧ byteAt s.save 2 = s.sp ∧ wordAt s.save 3 = s.i ∧ byteAt s.save 5 = s.st ∧
    byteAt s.save 6 = s.dt ∧ (∀ r : Nibble, byteAt s.save (7 + r.toNat) = s.getV r) ∧
    (∀ k : Nibble, wordAt s.save (23 + 2 * k.toNat) = s.getStack k) ∧
    (∀ a, a ≤ 0xFFF → byteAt s.save (55 + a) = s.mem.read a) ∧
    (∀ n : Fin 2048, colorAt s.save (4151 + 4 * n.val) =
      colorOf (s.fb.pixel ((Config.cellOrder n).val % 64) ((Config.cellOrder n).val / 64))) ∧
    ∀ (r : RunState) (x : Nibble) (d q : Bool) (ks : Vector Bool 16),
      State.save { s with runState := r, waitReg := x, draw := d, quit := q, keys := ks } = s.save

/-- R267: RestoreState with an image of the right size overwrites PC, SP, I, ST, DT, V, Stack, Memory and FB, and no other
part (the spec's D31, log 26); an image of another size changes nothing. Which cell comes n-th and which colours are set
are free values, the model's choice (DESIGN CHOICE, log 25), and the event is the head of `turns` (log 9). -/
def Obligations.RestoreOverwritesTheSnapshotState : Prop :=
  ∀ (s : State) (image : List Byte) (ts : List Turn), s.turns = .environment (.restoreState image) :: ts →
    (image.length ≠ 12343 → ∃ t, step s = .next t ∧ t.turns = ts ∧ OnlyChanges (fun p => p = .turns) s t) ∧
    (image.length = 12343 → ∃ t, step s = .next t ∧ t.pc = wordAt image 0 ∧ t.sp = byteAt image 2 ∧
      t.i = wordAt image 3 ∧ t.st = byteAt image 5 ∧ t.dt = byteAt image 6 ∧
      (∀ r : Nibble, t.getV r = byteAt image (7 + r.toNat)) ∧
      (∀ k : Nibble, t.getStack k = wordAt image (23 + 2 * k.toNat)) ∧
      (∀ a, a ≤ 0xFFF → t.mem.read a = byteAt image (55 + a)) ∧
      (∀ n : Fin 2048, t.fb.pixel ((Config.cellOrder n).val % 64) ((Config.cellOrder n).val / 64) =
        colorIsSet (colorAt image (4151 + 4 * n.val))) ∧
      t.keys = s.keys ∧ t.runState = s.runState ∧ t.waitReg = s.waitReg ∧ t.draw = s.draw ∧ t.quit = s.quit ∧
      t.started = s.started ∧ t.turns = ts ∧ t.randIn = s.randIn ∧ t.freeCount = s.freeCount)

/-- R267: the round trip: a snapshot of `s` restored into any machine gives it the PC, SP, I, DT, ST, V, Stack, Memory and
FB of `s`, whatever the cell order and the colours (log 25). -/
def Obligations.SnapshotRoundTrip : Prop :=
  ∀ s u : State, s.mem.wf → u.restore s.save =
    { u with pc := s.pc, sp := s.sp, i := s.i, st := s.st, dt := s.dt, v := s.v, stack := s.stack, mem := s.mem,
             fb := s.fb }

/-- R73, R263 (log 24): an instruction that is fetched starts the program, and only a reset ends that; once a program is
running, no event of the environment but RestoreState (and a reset, which is construction anew) writes main memory. -/
def Obligations.OnlyRestoreWritesMemoryWhileRunning : Prop :=
  ∀ s t : State, step s = .next t → (s.fetches → t.started = true) ∧
    (s.started = true → (∀ p, s.mover ≠ .environment (.reset p)) → t.started = true ∧
      ∀ e, s.mover = .environment e → (∀ image, e ≠ .restoreState image) → t.mem = s.mem)
end

