-- ==== Sys2Proof/Laws/Decode.lean ====
section
/-! SUPPORT. The fields of a word written in one of the formats of R92, the word put together again from its fields, and
the two bytes of a word. -/

namespace Sys2Proof

open BitVec

/-! ### The fields of each format -/

@[simp] theorem familyOf_formatFA (f : Nibble) (a : Addr) : familyOf (formatFA f a) = f := extractLsb'_append_eq_left

@[simp] theorem nnnOf_formatFA (f : Nibble) (a : Addr) : nnnOf (formatFA f a) = a := extractLsb'_append_eq_right

@[simp] theorem familyOf_formatFK (f x : Nibble) (k : Byte) : familyOf (formatFK f x k) = f :=
  (extractLsb'_append_eq_of_le (by omega)).trans extractLsb'_append_eq_left

@[simp] theorem xOf_formatFK (f x : Nibble) (k : Byte) : xOf (formatFK f x k) = x :=
  (extractLsb'_append_eq_of_le (by omega)).trans extractLsb'_append_eq_right

@[simp] theorem kkOf_formatFK (f x : Nibble) (k : Byte) : kkOf (formatFK f x k) = k := extractLsb'_append_eq_right

@[simp] theorem familyOf_formatFX (f x : Nibble) (k : Byte) : familyOf (formatFX f x k) = f := familyOf_formatFK f x k

@[simp] theorem xOf_formatFX (f x : Nibble) (k : Byte) : xOf (formatFX f x k) = x := xOf_formatFK f x k

@[simp] theorem kkOf_formatFX (f x : Nibble) (k : Byte) : kkOf (formatFX f x k) = k := kkOf_formatFK f x k

@[simp] theorem familyOf_formatFR (f x y n : Nibble) : familyOf (formatFR f x y n) = f :=
  ((extractLsb'_append_eq_of_le (by omega)).trans (extractLsb'_append_eq_of_le (by omega))).trans
    extractLsb'_append_eq_left

@[simp] theorem xOf_formatFR (f x y n : Nibble) : xOf (formatFR f x y n) = x :=
  ((extractLsb'_append_eq_of_le (by omega)).trans (extractLsb'_append_eq_of_le (by omega))).trans
    extractLsb'_append_eq_right

@[simp] theorem yOf_formatFR (f x y n : Nibble) : yOf (formatFR f x y n) = y :=
  (extractLsb'_append_eq_of_le (by omega)).trans extractLsb'_append_eq_right

@[simp] theorem nOf_formatFR (f x y n : Nibble) : nOf (formatFR f x y n) = n := extractLsb'_append_eq_right

/-! ### A word from its fields -/

/-- A word is its family and its address field. -/
theorem formatFA_fields (w : Word) : formatFA (familyOf w) (nnnOf w) = w :=
  (extractLsb'_append_extractLsb'_eq_extractLsb' (by rfl)).trans (extractLsb'_eq_self)

/-- A word is its family, its x field and its low byte. -/
theorem formatFK_fields (w : Word) : formatFK (familyOf w) (xOf w) (kkOf w) = w := by
  have h : (familyOf w ++ xOf w : BitVec 8) = w.extractLsb' 8 8 :=
    extractLsb'_append_extractLsb'_eq_extractLsb' (by rfl)
  have h2 : formatFK (familyOf w) (xOf w) (kkOf w) = w.extractLsb' 8 8 ++ kkOf w := congrArg (· ++ kkOf w) h
  rw [h2]
  exact (extractLsb'_append_extractLsb'_eq_extractLsb' (by rfl)).trans extractLsb'_eq_self

/-- The low byte is the y and n fields. -/
theorem yOf_append_nOf (w : Word) : (yOf w ++ nOf w : BitVec 8) = kkOf w :=
  extractLsb'_append_extractLsb'_eq_extractLsb' (by rfl)

/-- A word is its four nibbles. -/
theorem formatFR_fields (w : Word) : formatFR (familyOf w) (xOf w) (yOf w) (nOf w) = w := by
  have h : formatFR (familyOf w) (xOf w) (yOf w) (nOf w) = formatFK (familyOf w) (xOf w) (yOf w ++ nOf w) :=
    BitVec.append_assoc
  rw [h, yOf_append_nOf, formatFK_fields]

/-! ### Bytes -/

/-- A word's bytes put together again, the first the high one (R65). -/
@[simp] theorem wordOfBytes_bytesOfWord (w : Word) : wordOfBytes (w.extractLsb' 8 8) (w.extractLsb' 0 8) = w :=
  (extractLsb'_append_extractLsb'_eq_extractLsb' (by rfl)).trans extractLsb'_eq_self

@[simp] theorem length_bytesOfWord (w : Word) : (bytesOfWord w).length = 2 := rfl

/-- Decoding two bytes is decoding their word, and nothing is left over (R90). -/
@[simp] theorem decode_pair (hi lo : Byte) (rest : List Byte) :
    decode (hi :: lo :: rest) = .ok (decodeWord (wordOfBytes hi lo), rest) := rfl

/-- The table's word is decoded as it stands when its bits are no more than a word's (log 33). -/
theorem decodeTableWord_eq (w : Word) : decodeTableWord 16 w.toNat = some (decodeWord w) := by
  have h : BitVec.ofNat 16 (w.toNat % 2 ^ 16) = w := by
    apply BitVec.eq_of_toNat_eq
    have := w.isLt
    simp only [BitVec.toNat_ofNat]
    omega
  simp only [decodeTableWord, h, bytesOfWord, decode_pair, wordOfBytes_bytesOfWord]

/-! ### The opcode map -/

/-- No word fits two rows of the map (R100: "The rows are disjoint"). -/
theorem opcodeMap_disjoint :
    opcodeMap.Pairwise fun r q => r.pattern &&& q.mask ≠ q.pattern &&& r.mask := by decide

/-- A pattern sets no bit that its mask does not examine (R100). -/
theorem opcodeMap_pattern_in_mask : ∀ r ∈ opcodeMap, r.pattern &&& r.mask = r.pattern := by decide

end Sys2Proof
end

