-- ==== Sys2Proof/Laws/State.lean ====
section
/-! SUPPORT. One lemma for each part of the state under each named update, so that no proof unfolds an update. -/

namespace Sys2Proof.Machine

@[simp] theorem State.setV_i (s : State) (x : Nibble) (b : Byte) : (s.setV x b).i = s.i := rfl
@[simp] theorem State.setV_pc (s : State) (x : Nibble) (b : Byte) : (s.setV x b).pc = s.pc := rfl
@[simp] theorem State.setV_sp (s : State) (x : Nibble) (b : Byte) : (s.setV x b).sp = s.sp := rfl
@[simp] theorem State.setV_stack (s : State) (x : Nibble) (b : Byte) : (s.setV x b).stack = s.stack := rfl
@[simp] theorem State.setV_dt (s : State) (x : Nibble) (b : Byte) : (s.setV x b).dt = s.dt := rfl
@[simp] theorem State.setV_st (s : State) (x : Nibble) (b : Byte) : (s.setV x b).st = s.st := rfl
@[simp] theorem State.setV_mem (s : State) (x : Nibble) (b : Byte) : (s.setV x b).mem = s.mem := rfl
@[simp] theorem State.setV_fb (s : State) (x : Nibble) (b : Byte) : (s.setV x b).fb = s.fb := rfl
@[simp] theorem State.setV_keys (s : State) (x : Nibble) (b : Byte) : (s.setV x b).keys = s.keys := rfl
@[simp] theorem State.setV_runState (s : State) (x : Nibble) (b : Byte) : (s.setV x b).runState = s.runState := rfl
@[simp] theorem State.setV_waitReg (s : State) (x : Nibble) (b : Byte) : (s.setV x b).waitReg = s.waitReg := rfl
@[simp] theorem State.setV_draw (s : State) (x : Nibble) (b : Byte) : (s.setV x b).draw = s.draw := rfl
@[simp] theorem State.setV_quit (s : State) (x : Nibble) (b : Byte) : (s.setV x b).quit = s.quit := rfl
@[simp] theorem State.setV_turns (s : State) (x : Nibble) (b : Byte) : (s.setV x b).turns = s.turns := rfl
@[simp] theorem State.setV_started (s : State) (x : Nibble) (b : Byte) : (s.setV x b).started = s.started := rfl
@[simp] theorem State.setV_randIn (s : State) (x : Nibble) (b : Byte) : (s.setV x b).randIn = s.randIn := rfl
@[simp] theorem State.setV_freeCount (s : State) (x : Nibble) (b : Byte) : (s.setV x b).freeCount = s.freeCount := rfl
@[simp] theorem State.setV_getStack (s : State) (x : Nibble) (b : Byte) (j : Nibble) : (s.setV x b).getStack j = s.getStack j := rfl
@[simp] theorem State.setV_getKey (s : State) (x : Nibble) (b : Byte) (j : Nibble) : (s.setV x b).getKey j = s.getKey j := rfl
@[simp] theorem State.setV_dataAddr (s : State) (x : Nibble) (b : Byte) (n : Nat) : (s.setV x b).dataAddr n = s.dataAddr n := rfl

@[simp] theorem State.setI_v (s : State) (w : Word) : (s.setI w).v = s.v := rfl
@[simp] theorem State.setI_i (s : State) (w : Word) : (s.setI w).i = w := rfl
@[simp] theorem State.setI_pc (s : State) (w : Word) : (s.setI w).pc = s.pc := rfl
@[simp] theorem State.setI_sp (s : State) (w : Word) : (s.setI w).sp = s.sp := rfl
@[simp] theorem State.setI_stack (s : State) (w : Word) : (s.setI w).stack = s.stack := rfl
@[simp] theorem State.setI_dt (s : State) (w : Word) : (s.setI w).dt = s.dt := rfl
@[simp] theorem State.setI_st (s : State) (w : Word) : (s.setI w).st = s.st := rfl
@[simp] theorem State.setI_mem (s : State) (w : Word) : (s.setI w).mem = s.mem := rfl
@[simp] theorem State.setI_fb (s : State) (w : Word) : (s.setI w).fb = s.fb := rfl
@[simp] theorem State.setI_keys (s : State) (w : Word) : (s.setI w).keys = s.keys := rfl
@[simp] theorem State.setI_runState (s : State) (w : Word) : (s.setI w).runState = s.runState := rfl
@[simp] theorem State.setI_waitReg (s : State) (w : Word) : (s.setI w).waitReg = s.waitReg := rfl
@[simp] theorem State.setI_draw (s : State) (w : Word) : (s.setI w).draw = s.draw := rfl
@[simp] theorem State.setI_quit (s : State) (w : Word) : (s.setI w).quit = s.quit := rfl
@[simp] theorem State.setI_turns (s : State) (w : Word) : (s.setI w).turns = s.turns := rfl
@[simp] theorem State.setI_started (s : State) (w : Word) : (s.setI w).started = s.started := rfl
@[simp] theorem State.setI_randIn (s : State) (w : Word) : (s.setI w).randIn = s.randIn := rfl
@[simp] theorem State.setI_freeCount (s : State) (w : Word) : (s.setI w).freeCount = s.freeCount := rfl
@[simp] theorem State.setI_getV (s : State) (w : Word) (r : Nibble) : (s.setI w).getV r = s.getV r := rfl
@[simp] theorem State.setI_getStack (s : State) (w : Word) (j : Nibble) : (s.setI w).getStack j = s.getStack j := rfl
@[simp] theorem State.setI_getKey (s : State) (w : Word) (j : Nibble) : (s.setI w).getKey j = s.getKey j := rfl

@[simp] theorem State.setPc_v (s : State) (w : Word) : (s.setPc w).v = s.v := rfl
@[simp] theorem State.setPc_i (s : State) (w : Word) : (s.setPc w).i = s.i := rfl
@[simp] theorem State.setPc_pc (s : State) (w : Word) : (s.setPc w).pc = w := rfl
@[simp] theorem State.setPc_sp (s : State) (w : Word) : (s.setPc w).sp = s.sp := rfl
@[simp] theorem State.setPc_stack (s : State) (w : Word) : (s.setPc w).stack = s.stack := rfl
@[simp] theorem State.setPc_dt (s : State) (w : Word) : (s.setPc w).dt = s.dt := rfl
@[simp] theorem State.setPc_st (s : State) (w : Word) : (s.setPc w).st = s.st := rfl
@[simp] theorem State.setPc_mem (s : State) (w : Word) : (s.setPc w).mem = s.mem := rfl
@[simp] theorem State.setPc_fb (s : State) (w : Word) : (s.setPc w).fb = s.fb := rfl
@[simp] theorem State.setPc_keys (s : State) (w : Word) : (s.setPc w).keys = s.keys := rfl
@[simp] theorem State.setPc_runState (s : State) (w : Word) : (s.setPc w).runState = s.runState := rfl
@[simp] theorem State.setPc_waitReg (s : State) (w : Word) : (s.setPc w).waitReg = s.waitReg := rfl
@[simp] theorem State.setPc_draw (s : State) (w : Word) : (s.setPc w).draw = s.draw := rfl
@[simp] theorem State.setPc_quit (s : State) (w : Word) : (s.setPc w).quit = s.quit := rfl
@[simp] theorem State.setPc_turns (s : State) (w : Word) : (s.setPc w).turns = s.turns := rfl
@[simp] theorem State.setPc_started (s : State) (w : Word) : (s.setPc w).started = s.started := rfl
@[simp] theorem State.setPc_randIn (s : State) (w : Word) : (s.setPc w).randIn = s.randIn := rfl
@[simp] theorem State.setPc_freeCount (s : State) (w : Word) : (s.setPc w).freeCount = s.freeCount := rfl
@[simp] theorem State.setPc_getV (s : State) (w : Word) (r : Nibble) : (s.setPc w).getV r = s.getV r := rfl
@[simp] theorem State.setPc_getStack (s : State) (w : Word) (j : Nibble) : (s.setPc w).getStack j = s.getStack j := rfl
@[simp] theorem State.setPc_getKey (s : State) (w : Word) (j : Nibble) : (s.setPc w).getKey j = s.getKey j := rfl
@[simp] theorem State.setPc_dataAddr (s : State) (w : Word) (n : Nat) : (s.setPc w).dataAddr n = s.dataAddr n := rfl

@[simp] theorem State.setSp_v (s : State) (b : Byte) : (s.setSp b).v = s.v := rfl
@[simp] theorem State.setSp_i (s : State) (b : Byte) : (s.setSp b).i = s.i := rfl
@[simp] theorem State.setSp_pc (s : State) (b : Byte) : (s.setSp b).pc = s.pc := rfl
@[simp] theorem State.setSp_sp (s : State) (b : Byte) : (s.setSp b).sp = b := rfl
@[simp] theorem State.setSp_stack (s : State) (b : Byte) : (s.setSp b).stack = s.stack := rfl
@[simp] theorem State.setSp_dt (s : State) (b : Byte) : (s.setSp b).dt = s.dt := rfl
@[simp] theorem State.setSp_st (s : State) (b : Byte) : (s.setSp b).st = s.st := rfl
@[simp] theorem State.setSp_mem (s : State) (b : Byte) : (s.setSp b).mem = s.mem := rfl
@[simp] theorem State.setSp_fb (s : State) (b : Byte) : (s.setSp b).fb = s.fb := rfl
@[simp] theorem State.setSp_keys (s : State) (b : Byte) : (s.setSp b).keys = s.keys := rfl
@[simp] theorem State.setSp_runState (s : State) (b : Byte) : (s.setSp b).runState = s.runState := rfl
@[simp] theorem State.setSp_waitReg (s : State) (b : Byte) : (s.setSp b).waitReg = s.waitReg := rfl
@[simp] theorem State.setSp_draw (s : State) (b : Byte) : (s.setSp b).draw = s.draw := rfl
@[simp] theorem State.setSp_quit (s : State) (b : Byte) : (s.setSp b).quit = s.quit := rfl
@[simp] theorem State.setSp_turns (s : State) (b : Byte) : (s.setSp b).turns = s.turns := rfl
@[simp] theorem State.setSp_started (s : State) (b : Byte) : (s.setSp b).started = s.started := rfl
@[simp] theorem State.setSp_randIn (s : State) (b : Byte) : (s.setSp b).randIn = s.randIn := rfl
@[simp] theorem State.setSp_freeCount (s : State) (b : Byte) : (s.setSp b).freeCount = s.freeCount := rfl
@[simp] theorem State.setSp_getV (s : State) (b : Byte) (r : Nibble) : (s.setSp b).getV r = s.getV r := rfl
@[simp] theorem State.setSp_getStack (s : State) (b : Byte) (j : Nibble) : (s.setSp b).getStack j = s.getStack j := rfl
@[simp] theorem State.setSp_getKey (s : State) (b : Byte) (j : Nibble) : (s.setSp b).getKey j = s.getKey j := rfl
@[simp] theorem State.setSp_dataAddr (s : State) (b : Byte) (n : Nat) : (s.setSp b).dataAddr n = s.dataAddr n := rfl

@[simp] theorem State.setStack_v (s : State) (k : Nibble) (w : Word) : (s.setStack k w).v = s.v := rfl
@[simp] theorem State.setStack_i (s : State) (k : Nibble) (w : Word) : (s.setStack k w).i = s.i := rfl
@[simp] theorem State.setStack_pc (s : State) (k : Nibble) (w : Word) : (s.setStack k w).pc = s.pc := rfl
@[simp] theorem State.setStack_sp (s : State) (k : Nibble) (w : Word) : (s.setStack k w).sp = s.sp := rfl
@[simp] theorem State.setStack_dt (s : State) (k : Nibble) (w : Word) : (s.setStack k w).dt = s.dt := rfl
@[simp] theorem State.setStack_st (s : State) (k : Nibble) (w : Word) : (s.setStack k w).st = s.st := rfl
@[simp] theorem State.setStack_mem (s : State) (k : Nibble) (w : Word) : (s.setStack k w).mem = s.mem := rfl
@[simp] theorem State.setStack_fb (s : State) (k : Nibble) (w : Word) : (s.setStack k w).fb = s.fb := rfl
@[simp] theorem State.setStack_keys (s : State) (k : Nibble) (w : Word) : (s.setStack k w).keys = s.keys := rfl
@[simp] theorem State.setStack_runState (s : State) (k : Nibble) (w : Word) : (s.setStack k w).runState = s.runState := rfl
@[simp] theorem State.setStack_waitReg (s : State) (k : Nibble) (w : Word) : (s.setStack k w).waitReg = s.waitReg := rfl
@[simp] theorem State.setStack_draw (s : State) (k : Nibble) (w : Word) : (s.setStack k w).draw = s.draw := rfl
@[simp] theorem State.setStack_quit (s : State) (k : Nibble) (w : Word) : (s.setStack k w).quit = s.quit := rfl
@[simp] theorem State.setStack_turns (s : State) (k : Nibble) (w : Word) : (s.setStack k w).turns = s.turns := rfl
@[simp] theorem State.setStack_started (s : State) (k : Nibble) (w : Word) : (s.setStack k w).started = s.started := rfl
@[simp] theorem State.setStack_randIn (s : State) (k : Nibble) (w : Word) : (s.setStack k w).randIn = s.randIn := rfl
@[simp] theorem State.setStack_freeCount (s : State) (k : Nibble) (w : Word) : (s.setStack k w).freeCount = s.freeCount := rfl
@[simp] theorem State.setStack_getV (s : State) (k : Nibble) (w : Word) (r : Nibble) : (s.setStack k w).getV r = s.getV r := rfl
@[simp] theorem State.setStack_getKey (s : State) (k : Nibble) (w : Word) (j : Nibble) : (s.setStack k w).getKey j = s.getKey j := rfl
@[simp] theorem State.setStack_dataAddr (s : State) (k : Nibble) (w : Word) (n : Nat) : (s.setStack k w).dataAddr n = s.dataAddr n := rfl

@[simp] theorem State.setDt_v (s : State) (b : Byte) : (s.setDt b).v = s.v := rfl
@[simp] theorem State.setDt_i (s : State) (b : Byte) : (s.setDt b).i = s.i := rfl
@[simp] theorem State.setDt_pc (s : State) (b : Byte) : (s.setDt b).pc = s.pc := rfl
@[simp] theorem State.setDt_sp (s : State) (b : Byte) : (s.setDt b).sp = s.sp := rfl
@[simp] theorem State.setDt_stack (s : State) (b : Byte) : (s.setDt b).stack = s.stack := rfl
@[simp] theorem State.setDt_dt (s : State) (b : Byte) : (s.setDt b).dt = b := rfl
@[simp] theorem State.setDt_st (s : State) (b : Byte) : (s.setDt b).st = s.st := rfl
@[simp] theorem State.setDt_mem (s : State) (b : Byte) : (s.setDt b).mem = s.mem := rfl
@[simp] theorem State.setDt_fb (s : State) (b : Byte) : (s.setDt b).fb = s.fb := rfl
@[simp] theorem State.setDt_keys (s : State) (b : Byte) : (s.setDt b).keys = s.keys := rfl
@[simp] theorem State.setDt_runState (s : State) (b : Byte) : (s.setDt b).runState = s.runState := rfl
@[simp] theorem State.setDt_waitReg (s : State) (b : Byte) : (s.setDt b).waitReg = s.waitReg := rfl
@[simp] theorem State.setDt_draw (s : State) (b : Byte) : (s.setDt b).draw = s.draw := rfl
@[simp] theorem State.setDt_quit (s : State) (b : Byte) : (s.setDt b).quit = s.quit := rfl
@[simp] theorem State.setDt_turns (s : State) (b : Byte) : (s.setDt b).turns = s.turns := rfl
@[simp] theorem State.setDt_started (s : State) (b : Byte) : (s.setDt b).started = s.started := rfl
@[simp] theorem State.setDt_randIn (s : State) (b : Byte) : (s.setDt b).randIn = s.randIn := rfl
@[simp] theorem State.setDt_freeCount (s : State) (b : Byte) : (s.setDt b).freeCount = s.freeCount := rfl
@[simp] theorem State.setDt_getV (s : State) (b : Byte) (r : Nibble) : (s.setDt b).getV r = s.getV r := rfl
@[simp] theorem State.setDt_getStack (s : State) (b : Byte) (j : Nibble) : (s.setDt b).getStack j = s.getStack j := rfl
@[simp] theorem State.setDt_getKey (s : State) (b : Byte) (j : Nibble) : (s.setDt b).getKey j = s.getKey j := rfl
@[simp] theorem State.setDt_dataAddr (s : State) (b : Byte) (n : Nat) : (s.setDt b).dataAddr n = s.dataAddr n := rfl

@[simp] theorem State.setSt_v (s : State) (b : Byte) : (s.setSt b).v = s.v := rfl
@[simp] theorem State.setSt_i (s : State) (b : Byte) : (s.setSt b).i = s.i := rfl
@[simp] theorem State.setSt_pc (s : State) (b : Byte) : (s.setSt b).pc = s.pc := rfl
@[simp] theorem State.setSt_sp (s : State) (b : Byte) : (s.setSt b).sp = s.sp := rfl
@[simp] theorem State.setSt_stack (s : State) (b : Byte) : (s.setSt b).stack = s.stack := rfl
@[simp] theorem State.setSt_dt (s : State) (b : Byte) : (s.setSt b).dt = s.dt := rfl
@[simp] theorem State.setSt_st (s : State) (b : Byte) : (s.setSt b).st = b := rfl
@[simp] theorem State.setSt_mem (s : State) (b : Byte) : (s.setSt b).mem = s.mem := rfl
@[simp] theorem State.setSt_fb (s : State) (b : Byte) : (s.setSt b).fb = s.fb := rfl
@[simp] theorem State.setSt_keys (s : State) (b : Byte) : (s.setSt b).keys = s.keys := rfl
@[simp] theorem State.setSt_runState (s : State) (b : Byte) : (s.setSt b).runState = s.runState := rfl
@[simp] theorem State.setSt_waitReg (s : State) (b : Byte) : (s.setSt b).waitReg = s.waitReg := rfl
@[simp] theorem State.setSt_draw (s : State) (b : Byte) : (s.setSt b).draw = s.draw := rfl
@[simp] theorem State.setSt_quit (s : State) (b : Byte) : (s.setSt b).quit = s.quit := rfl
@[simp] theorem State.setSt_turns (s : State) (b : Byte) : (s.setSt b).turns = s.turns := rfl
@[simp] theorem State.setSt_started (s : State) (b : Byte) : (s.setSt b).started = s.started := rfl
@[simp] theorem State.setSt_randIn (s : State) (b : Byte) : (s.setSt b).randIn = s.randIn := rfl
@[simp] theorem State.setSt_freeCount (s : State) (b : Byte) : (s.setSt b).freeCount = s.freeCount := rfl
@[simp] theorem State.setSt_getV (s : State) (b : Byte) (r : Nibble) : (s.setSt b).getV r = s.getV r := rfl
@[simp] theorem State.setSt_getStack (s : State) (b : Byte) (j : Nibble) : (s.setSt b).getStack j = s.getStack j := rfl
@[simp] theorem State.setSt_getKey (s : State) (b : Byte) (j : Nibble) : (s.setSt b).getKey j = s.getKey j := rfl
@[simp] theorem State.setSt_dataAddr (s : State) (b : Byte) (n : Nat) : (s.setSt b).dataAddr n = s.dataAddr n := rfl

@[simp] theorem State.setMem_v (s : State) (m : Memory) : (s.setMem m).v = s.v := rfl
@[simp] theorem State.setMem_i (s : State) (m : Memory) : (s.setMem m).i = s.i := rfl
@[simp] theorem State.setMem_pc (s : State) (m : Memory) : (s.setMem m).pc = s.pc := rfl
@[simp] theorem State.setMem_sp (s : State) (m : Memory) : (s.setMem m).sp = s.sp := rfl
@[simp] theorem State.setMem_stack (s : State) (m : Memory) : (s.setMem m).stack = s.stack := rfl
@[simp] theorem State.setMem_dt (s : State) (m : Memory) : (s.setMem m).dt = s.dt := rfl
@[simp] theorem State.setMem_st (s : State) (m : Memory) : (s.setMem m).st = s.st := rfl
@[simp] theorem State.setMem_mem (s : State) (m : Memory) : (s.setMem m).mem = m := rfl
@[simp] theorem State.setMem_fb (s : State) (m : Memory) : (s.setMem m).fb = s.fb := rfl
@[simp] theorem State.setMem_keys (s : State) (m : Memory) : (s.setMem m).keys = s.keys := rfl
@[simp] theorem State.setMem_runState (s : State) (m : Memory) : (s.setMem m).runState = s.runState := rfl
@[simp] theorem State.setMem_waitReg (s : State) (m : Memory) : (s.setMem m).waitReg = s.waitReg := rfl
@[simp] theorem State.setMem_draw (s : State) (m : Memory) : (s.setMem m).draw = s.draw := rfl
@[simp] theorem State.setMem_quit (s : State) (m : Memory) : (s.setMem m).quit = s.quit := rfl
@[simp] theorem State.setMem_turns (s : State) (m : Memory) : (s.setMem m).turns = s.turns := rfl
@[simp] theorem State.setMem_started (s : State) (m : Memory) : (s.setMem m).started = s.started := rfl
@[simp] theorem State.setMem_randIn (s : State) (m : Memory) : (s.setMem m).randIn = s.randIn := rfl
@[simp] theorem State.setMem_freeCount (s : State) (m : Memory) : (s.setMem m).freeCount = s.freeCount := rfl
@[simp] theorem State.setMem_getV (s : State) (m : Memory) (r : Nibble) : (s.setMem m).getV r = s.getV r := rfl
@[simp] theorem State.setMem_getStack (s : State) (m : Memory) (j : Nibble) : (s.setMem m).getStack j = s.getStack j := rfl
@[simp] theorem State.setMem_getKey (s : State) (m : Memory) (j : Nibble) : (s.setMem m).getKey j = s.getKey j := rfl
@[simp] theorem State.setMem_dataAddr (s : State) (m : Memory) (n : Nat) : (s.setMem m).dataAddr n = s.dataAddr n := rfl

@[simp] theorem State.setFb_v (s : State) (f : Framebuffer) : (s.setFb f).v = s.v := rfl
@[simp] theorem State.setFb_i (s : State) (f : Framebuffer) : (s.setFb f).i = s.i := rfl
@[simp] theorem State.setFb_pc (s : State) (f : Framebuffer) : (s.setFb f).pc = s.pc := rfl
@[simp] theorem State.setFb_sp (s : State) (f : Framebuffer) : (s.setFb f).sp = s.sp := rfl
@[simp] theorem State.setFb_stack (s : State) (f : Framebuffer) : (s.setFb f).stack = s.stack := rfl
@[simp] theorem State.setFb_dt (s : State) (f : Framebuffer) : (s.setFb f).dt = s.dt := rfl
@[simp] theorem State.setFb_st (s : State) (f : Framebuffer) : (s.setFb f).st = s.st := rfl
@[simp] theorem State.setFb_mem (s : State) (f : Framebuffer) : (s.setFb f).mem = s.mem := rfl
@[simp] theorem State.setFb_fb (s : State) (f : Framebuffer) : (s.setFb f).fb = f := rfl
@[simp] theorem State.setFb_keys (s : State) (f : Framebuffer) : (s.setFb f).keys = s.keys := rfl
@[simp] theorem State.setFb_runState (s : State) (f : Framebuffer) : (s.setFb f).runState = s.runState := rfl
@[simp] theorem State.setFb_waitReg (s : State) (f : Framebuffer) : (s.setFb f).waitReg = s.waitReg := rfl
@[simp] theorem State.setFb_draw (s : State) (f : Framebuffer) : (s.setFb f).draw = s.draw := rfl
@[simp] theorem State.setFb_quit (s : State) (f : Framebuffer) : (s.setFb f).quit = s.quit := rfl
@[simp] theorem State.setFb_turns (s : State) (f : Framebuffer) : (s.setFb f).turns = s.turns := rfl
@[simp] theorem State.setFb_started (s : State) (f : Framebuffer) : (s.setFb f).started = s.started := rfl
@[simp] theorem State.setFb_randIn (s : State) (f : Framebuffer) : (s.setFb f).randIn = s.randIn := rfl
@[simp] theorem State.setFb_freeCount (s : State) (f : Framebuffer) : (s.setFb f).freeCount = s.freeCount := rfl
@[simp] theorem State.setFb_getV (s : State) (f : Framebuffer) (r : Nibble) : (s.setFb f).getV r = s.getV r := rfl
@[simp] theorem State.setFb_getStack (s : State) (f : Framebuffer) (j : Nibble) : (s.setFb f).getStack j = s.getStack j := rfl
@[simp] theorem State.setFb_getKey (s : State) (f : Framebuffer) (j : Nibble) : (s.setFb f).getKey j = s.getKey j := rfl
@[simp] theorem State.setFb_dataAddr (s : State) (f : Framebuffer) (n : Nat) : (s.setFb f).dataAddr n = s.dataAddr n := rfl

@[simp] theorem State.setKey_v (s : State) (k : Nibble) (b : Bool) : (s.setKey k b).v = s.v := rfl
@[simp] theorem State.setKey_i (s : State) (k : Nibble) (b : Bool) : (s.setKey k b).i = s.i := rfl
@[simp] theorem State.setKey_pc (s : State) (k : Nibble) (b : Bool) : (s.setKey k b).pc = s.pc := rfl
@[simp] theorem State.setKey_sp (s : State) (k : Nibble) (b : Bool) : (s.setKey k b).sp = s.sp := rfl
@[simp] theorem State.setKey_stack (s : State) (k : Nibble) (b : Bool) : (s.setKey k b).stack = s.stack := rfl
@[simp] theorem State.setKey_dt (s : State) (k : Nibble) (b : Bool) : (s.setKey k b).dt = s.dt := rfl
@[simp] theorem State.setKey_st (s : State) (k : Nibble) (b : Bool) : (s.setKey k b).st = s.st := rfl
@[simp] theorem State.setKey_mem (s : State) (k : Nibble) (b : Bool) : (s.setKey k b).mem = s.mem := rfl
@[simp] theorem State.setKey_fb (s : State) (k : Nibble) (b : Bool) : (s.setKey k b).fb = s.fb := rfl
@[simp] theorem State.setKey_runState (s : State) (k : Nibble) (b : Bool) : (s.setKey k b).runState = s.runState := rfl
@[simp] theorem State.setKey_waitReg (s : State) (k : Nibble) (b : Bool) : (s.setKey k b).waitReg = s.waitReg := rfl
@[simp] theorem State.setKey_draw (s : State) (k : Nibble) (b : Bool) : (s.setKey k b).draw = s.draw := rfl
@[simp] theorem State.setKey_quit (s : State) (k : Nibble) (b : Bool) : (s.setKey k b).quit = s.quit := rfl
@[simp] theorem State.setKey_turns (s : State) (k : Nibble) (b : Bool) : (s.setKey k b).turns = s.turns := rfl
@[simp] theorem State.setKey_started (s : State) (k : Nibble) (b : Bool) : (s.setKey k b).started = s.started := rfl
@[simp] theorem State.setKey_randIn (s : State) (k : Nibble) (b : Bool) : (s.setKey k b).randIn = s.randIn := rfl
@[simp] theorem State.setKey_freeCount (s : State) (k : Nibble) (b : Bool) : (s.setKey k b).freeCount = s.freeCount := rfl
@[simp] theorem State.setKey_getV (s : State) (k : Nibble) (b : Bool) (r : Nibble) : (s.setKey k b).getV r = s.getV r := rfl
@[simp] theorem State.setKey_getStack (s : State) (k : Nibble) (b : Bool) (j : Nibble) : (s.setKey k b).getStack j = s.getStack j := rfl
@[simp] theorem State.setKey_dataAddr (s : State) (k : Nibble) (b : Bool) (n : Nat) : (s.setKey k b).dataAddr n = s.dataAddr n := rfl

@[simp] theorem State.setRunState_v (s : State) (q : RunState) : (s.setRunState q).v = s.v := rfl
@[simp] theorem State.setRunState_i (s : State) (q : RunState) : (s.setRunState q).i = s.i := rfl
@[simp] theorem State.setRunState_pc (s : State) (q : RunState) : (s.setRunState q).pc = s.pc := rfl
@[simp] theorem State.setRunState_sp (s : State) (q : RunState) : (s.setRunState q).sp = s.sp := rfl
@[simp] theorem State.setRunState_stack (s : State) (q : RunState) : (s.setRunState q).stack = s.stack := rfl
@[simp] theorem State.setRunState_dt (s : State) (q : RunState) : (s.setRunState q).dt = s.dt := rfl
@[simp] theorem State.setRunState_st (s : State) (q : RunState) : (s.setRunState q).st = s.st := rfl
@[simp] theorem State.setRunState_mem (s : State) (q : RunState) : (s.setRunState q).mem = s.mem := rfl
@[simp] theorem State.setRunState_fb (s : State) (q : RunState) : (s.setRunState q).fb = s.fb := rfl
@[simp] theorem State.setRunState_keys (s : State) (q : RunState) : (s.setRunState q).keys = s.keys := rfl
@[simp] theorem State.setRunState_runState (s : State) (q : RunState) : (s.setRunState q).runState = q := rfl
@[simp] theorem State.setRunState_waitReg (s : State) (q : RunState) : (s.setRunState q).waitReg = s.waitReg := rfl
@[simp] theorem State.setRunState_draw (s : State) (q : RunState) : (s.setRunState q).draw = s.draw := rfl
@[simp] theorem State.setRunState_quit (s : State) (q : RunState) : (s.setRunState q).quit = s.quit := rfl
@[simp] theorem State.setRunState_turns (s : State) (q : RunState) : (s.setRunState q).turns = s.turns := rfl
@[simp] theorem State.setRunState_started (s : State) (q : RunState) : (s.setRunState q).started = s.started := rfl
@[simp] theorem State.setRunState_randIn (s : State) (q : RunState) : (s.setRunState q).randIn = s.randIn := rfl
@[simp] theorem State.setRunState_freeCount (s : State) (q : RunState) : (s.setRunState q).freeCount = s.freeCount := rfl
@[simp] theorem State.setRunState_getV (s : State) (q : RunState) (r : Nibble) : (s.setRunState q).getV r = s.getV r := rfl
@[simp] theorem State.setRunState_getStack (s : State) (q : RunState) (j : Nibble) : (s.setRunState q).getStack j = s.getStack j := rfl
@[simp] theorem State.setRunState_getKey (s : State) (q : RunState) (j : Nibble) : (s.setRunState q).getKey j = s.getKey j := rfl
@[simp] theorem State.setRunState_dataAddr (s : State) (q : RunState) (n : Nat) : (s.setRunState q).dataAddr n = s.dataAddr n := rfl

@[simp] theorem State.setWaitReg_v (s : State) (x : Nibble) : (s.setWaitReg x).v = s.v := rfl
@[simp] theorem State.setWaitReg_i (s : State) (x : Nibble) : (s.setWaitReg x).i = s.i := rfl
@[simp] theorem State.setWaitReg_pc (s : State) (x : Nibble) : (s.setWaitReg x).pc = s.pc := rfl
@[simp] theorem State.setWaitReg_sp (s : State) (x : Nibble) : (s.setWaitReg x).sp = s.sp := rfl
@[simp] theorem State.setWaitReg_stack (s : State) (x : Nibble) : (s.setWaitReg x).stack = s.stack := rfl
@[simp] theorem State.setWaitReg_dt (s : State) (x : Nibble) : (s.setWaitReg x).dt = s.dt := rfl
@[simp] theorem State.setWaitReg_st (s : State) (x : Nibble) : (s.setWaitReg x).st = s.st := rfl
@[simp] theorem State.setWaitReg_mem (s : State) (x : Nibble) : (s.setWaitReg x).mem = s.mem := rfl
@[simp] theorem State.setWaitReg_fb (s : State) (x : Nibble) : (s.setWaitReg x).fb = s.fb := rfl
@[simp] theorem State.setWaitReg_keys (s : State) (x : Nibble) : (s.setWaitReg x).keys = s.keys := rfl
@[simp] theorem State.setWaitReg_runState (s : State) (x : Nibble) : (s.setWaitReg x).runState = s.runState := rfl
@[simp] theorem State.setWaitReg_waitReg (s : State) (x : Nibble) : (s.setWaitReg x).waitReg = x := rfl
@[simp] theorem State.setWaitReg_draw (s : State) (x : Nibble) : (s.setWaitReg x).draw = s.draw := rfl
@[simp] theorem State.setWaitReg_quit (s : State) (x : Nibble) : (s.setWaitReg x).quit = s.quit := rfl
@[simp] theorem State.setWaitReg_turns (s : State) (x : Nibble) : (s.setWaitReg x).turns = s.turns := rfl
@[simp] theorem State.setWaitReg_started (s : State) (x : Nibble) : (s.setWaitReg x).started = s.started := rfl
@[simp] theorem State.setWaitReg_randIn (s : State) (x : Nibble) : (s.setWaitReg x).randIn = s.randIn := rfl
@[simp] theorem State.setWaitReg_freeCount (s : State) (x : Nibble) : (s.setWaitReg x).freeCount = s.freeCount := rfl
@[simp] theorem State.setWaitReg_getV (s : State) (x : Nibble) (r : Nibble) : (s.setWaitReg x).getV r = s.getV r := rfl
@[simp] theorem State.setWaitReg_getStack (s : State) (x : Nibble) (j : Nibble) : (s.setWaitReg x).getStack j = s.getStack j := rfl
@[simp] theorem State.setWaitReg_getKey (s : State) (x : Nibble) (j : Nibble) : (s.setWaitReg x).getKey j = s.getKey j := rfl
@[simp] theorem State.setWaitReg_dataAddr (s : State) (x : Nibble) (n : Nat) : (s.setWaitReg x).dataAddr n = s.dataAddr n := rfl

@[simp] theorem State.setDraw_v (s : State) (b : Bool) : (s.setDraw b).v = s.v := rfl
@[simp] theorem State.setDraw_i (s : State) (b : Bool) : (s.setDraw b).i = s.i := rfl
@[simp] theorem State.setDraw_pc (s : State) (b : Bool) : (s.setDraw b).pc = s.pc := rfl
@[simp] theorem State.setDraw_sp (s : State) (b : Bool) : (s.setDraw b).sp = s.sp := rfl
@[simp] theorem State.setDraw_stack (s : State) (b : Bool) : (s.setDraw b).stack = s.stack := rfl
@[simp] theorem State.setDraw_dt (s : State) (b : Bool) : (s.setDraw b).dt = s.dt := rfl
@[simp] theorem State.setDraw_st (s : State) (b : Bool) : (s.setDraw b).st = s.st := rfl
@[simp] theorem State.setDraw_mem (s : State) (b : Bool) : (s.setDraw b).mem = s.mem := rfl
@[simp] theorem State.setDraw_fb (s : State) (b : Bool) : (s.setDraw b).fb = s.fb := rfl
@[simp] theorem State.setDraw_keys (s : State) (b : Bool) : (s.setDraw b).keys = s.keys := rfl
@[simp] theorem State.setDraw_runState (s : State) (b : Bool) : (s.setDraw b).runState = s.runState := rfl
@[simp] theorem State.setDraw_waitReg (s : State) (b : Bool) : (s.setDraw b).waitReg = s.waitReg := rfl
@[simp] theorem State.setDraw_draw (s : State) (b : Bool) : (s.setDraw b).draw = b := rfl
@[simp] theorem State.setDraw_quit (s : State) (b : Bool) : (s.setDraw b).quit = s.quit := rfl
@[simp] theorem State.setDraw_turns (s : State) (b : Bool) : (s.setDraw b).turns = s.turns := rfl
@[simp] theorem State.setDraw_started (s : State) (b : Bool) : (s.setDraw b).started = s.started := rfl
@[simp] theorem State.setDraw_randIn (s : State) (b : Bool) : (s.setDraw b).randIn = s.randIn := rfl
@[simp] theorem State.setDraw_freeCount (s : State) (b : Bool) : (s.setDraw b).freeCount = s.freeCount := rfl
@[simp] theorem State.setDraw_getV (s : State) (b : Bool) (r : Nibble) : (s.setDraw b).getV r = s.getV r := rfl
@[simp] theorem State.setDraw_getStack (s : State) (b : Bool) (j : Nibble) : (s.setDraw b).getStack j = s.getStack j := rfl
@[simp] theorem State.setDraw_getKey (s : State) (b : Bool) (j : Nibble) : (s.setDraw b).getKey j = s.getKey j := rfl
@[simp] theorem State.setDraw_dataAddr (s : State) (b : Bool) (n : Nat) : (s.setDraw b).dataAddr n = s.dataAddr n := rfl

@[simp] theorem State.setQuit_v (s : State) (b : Bool) : (s.setQuit b).v = s.v := rfl
@[simp] theorem State.setQuit_i (s : State) (b : Bool) : (s.setQuit b).i = s.i := rfl
@[simp] theorem State.setQuit_pc (s : State) (b : Bool) : (s.setQuit b).pc = s.pc := rfl
@[simp] theorem State.setQuit_sp (s : State) (b : Bool) : (s.setQuit b).sp = s.sp := rfl
@[simp] theorem State.setQuit_stack (s : State) (b : Bool) : (s.setQuit b).stack = s.stack := rfl
@[simp] theorem State.setQuit_dt (s : State) (b : Bool) : (s.setQuit b).dt = s.dt := rfl
@[simp] theorem State.setQuit_st (s : State) (b : Bool) : (s.setQuit b).st = s.st := rfl
@[simp] theorem State.setQuit_mem (s : State) (b : Bool) : (s.setQuit b).mem = s.mem := rfl
@[simp] theorem State.setQuit_fb (s : State) (b : Bool) : (s.setQuit b).fb = s.fb := rfl
@[simp] theorem State.setQuit_keys (s : State) (b : Bool) : (s.setQuit b).keys = s.keys := rfl
@[simp] theorem State.setQuit_runState (s : State) (b : Bool) : (s.setQuit b).runState = s.runState := rfl
@[simp] theorem State.setQuit_waitReg (s : State) (b : Bool) : (s.setQuit b).waitReg = s.waitReg := rfl
@[simp] theorem State.setQuit_draw (s : State) (b : Bool) : (s.setQuit b).draw = s.draw := rfl
@[simp] theorem State.setQuit_quit (s : State) (b : Bool) : (s.setQuit b).quit = b := rfl
@[simp] theorem State.setQuit_turns (s : State) (b : Bool) : (s.setQuit b).turns = s.turns := rfl
@[simp] theorem State.setQuit_started (s : State) (b : Bool) : (s.setQuit b).started = s.started := rfl
@[simp] theorem State.setQuit_randIn (s : State) (b : Bool) : (s.setQuit b).randIn = s.randIn := rfl
@[simp] theorem State.setQuit_freeCount (s : State) (b : Bool) : (s.setQuit b).freeCount = s.freeCount := rfl
@[simp] theorem State.setQuit_getV (s : State) (b : Bool) (r : Nibble) : (s.setQuit b).getV r = s.getV r := rfl
@[simp] theorem State.setQuit_getStack (s : State) (b : Bool) (j : Nibble) : (s.setQuit b).getStack j = s.getStack j := rfl
@[simp] theorem State.setQuit_getKey (s : State) (b : Bool) (j : Nibble) : (s.setQuit b).getKey j = s.getKey j := rfl
@[simp] theorem State.setQuit_dataAddr (s : State) (b : Bool) (n : Nat) : (s.setQuit b).dataAddr n = s.dataAddr n := rfl

@[simp] theorem State.setStarted_v (s : State) (b : Bool) : (s.setStarted b).v = s.v := rfl
@[simp] theorem State.setStarted_i (s : State) (b : Bool) : (s.setStarted b).i = s.i := rfl
@[simp] theorem State.setStarted_pc (s : State) (b : Bool) : (s.setStarted b).pc = s.pc := rfl
@[simp] theorem State.setStarted_sp (s : State) (b : Bool) : (s.setStarted b).sp = s.sp := rfl
@[simp] theorem State.setStarted_stack (s : State) (b : Bool) : (s.setStarted b).stack = s.stack := rfl
@[simp] theorem State.setStarted_dt (s : State) (b : Bool) : (s.setStarted b).dt = s.dt := rfl
@[simp] theorem State.setStarted_st (s : State) (b : Bool) : (s.setStarted b).st = s.st := rfl
@[simp] theorem State.setStarted_mem (s : State) (b : Bool) : (s.setStarted b).mem = s.mem := rfl
@[simp] theorem State.setStarted_fb (s : State) (b : Bool) : (s.setStarted b).fb = s.fb := rfl
@[simp] theorem State.setStarted_keys (s : State) (b : Bool) : (s.setStarted b).keys = s.keys := rfl
@[simp] theorem State.setStarted_runState (s : State) (b : Bool) : (s.setStarted b).runState = s.runState := rfl
@[simp] theorem State.setStarted_waitReg (s : State) (b : Bool) : (s.setStarted b).waitReg = s.waitReg := rfl
@[simp] theorem State.setStarted_draw (s : State) (b : Bool) : (s.setStarted b).draw = s.draw := rfl
@[simp] theorem State.setStarted_quit (s : State) (b : Bool) : (s.setStarted b).quit = s.quit := rfl
@[simp] theorem State.setStarted_turns (s : State) (b : Bool) : (s.setStarted b).turns = s.turns := rfl
@[simp] theorem State.setStarted_started (s : State) (b : Bool) : (s.setStarted b).started = b := rfl
@[simp] theorem State.setStarted_randIn (s : State) (b : Bool) : (s.setStarted b).randIn = s.randIn := rfl
@[simp] theorem State.setStarted_freeCount (s : State) (b : Bool) : (s.setStarted b).freeCount = s.freeCount := rfl
@[simp] theorem State.setStarted_getV (s : State) (b : Bool) (r : Nibble) : (s.setStarted b).getV r = s.getV r := rfl
@[simp] theorem State.setStarted_getStack (s : State) (b : Bool) (j : Nibble) : (s.setStarted b).getStack j = s.getStack j := rfl
@[simp] theorem State.setStarted_getKey (s : State) (b : Bool) (j : Nibble) : (s.setStarted b).getKey j = s.getKey j := rfl
@[simp] theorem State.setStarted_dataAddr (s : State) (b : Bool) (n : Nat) : (s.setStarted b).dataAddr n = s.dataAddr n := rfl

@[simp] theorem State.setTurns_v (s : State) (ts : List Turn) : (s.setTurns ts).v = s.v := rfl
@[simp] theorem State.setTurns_i (s : State) (ts : List Turn) : (s.setTurns ts).i = s.i := rfl
@[simp] theorem State.setTurns_pc (s : State) (ts : List Turn) : (s.setTurns ts).pc = s.pc := rfl
@[simp] theorem State.setTurns_sp (s : State) (ts : List Turn) : (s.setTurns ts).sp = s.sp := rfl
@[simp] theorem State.setTurns_stack (s : State) (ts : List Turn) : (s.setTurns ts).stack = s.stack := rfl
@[simp] theorem State.setTurns_dt (s : State) (ts : List Turn) : (s.setTurns ts).dt = s.dt := rfl
@[simp] theorem State.setTurns_st (s : State) (ts : List Turn) : (s.setTurns ts).st = s.st := rfl
@[simp] theorem State.setTurns_mem (s : State) (ts : List Turn) : (s.setTurns ts).mem = s.mem := rfl
@[simp] theorem State.setTurns_fb (s : State) (ts : List Turn) : (s.setTurns ts).fb = s.fb := rfl
@[simp] theorem State.setTurns_keys (s : State) (ts : List Turn) : (s.setTurns ts).keys = s.keys := rfl
@[simp] theorem State.setTurns_runState (s : State) (ts : List Turn) : (s.setTurns ts).runState = s.runState := rfl
@[simp] theorem State.setTurns_waitReg (s : State) (ts : List Turn) : (s.setTurns ts).waitReg = s.waitReg := rfl
@[simp] theorem State.setTurns_draw (s : State) (ts : List Turn) : (s.setTurns ts).draw = s.draw := rfl
@[simp] theorem State.setTurns_quit (s : State) (ts : List Turn) : (s.setTurns ts).quit = s.quit := rfl
@[simp] theorem State.setTurns_turns (s : State) (ts : List Turn) : (s.setTurns ts).turns = ts := rfl
@[simp] theorem State.setTurns_started (s : State) (ts : List Turn) : (s.setTurns ts).started = s.started := rfl
@[simp] theorem State.setTurns_randIn (s : State) (ts : List Turn) : (s.setTurns ts).randIn = s.randIn := rfl
@[simp] theorem State.setTurns_freeCount (s : State) (ts : List Turn) : (s.setTurns ts).freeCount = s.freeCount := rfl
@[simp] theorem State.setTurns_getV (s : State) (ts : List Turn) (r : Nibble) : (s.setTurns ts).getV r = s.getV r := rfl
@[simp] theorem State.setTurns_getStack (s : State) (ts : List Turn) (j : Nibble) : (s.setTurns ts).getStack j = s.getStack j := rfl
@[simp] theorem State.setTurns_getKey (s : State) (ts : List Turn) (j : Nibble) : (s.setTurns ts).getKey j = s.getKey j := rfl
@[simp] theorem State.setTurns_dataAddr (s : State) (ts : List Turn) (n : Nat) : (s.setTurns ts).dataAddr n = s.dataAddr n := rfl

@[simp] theorem State.setRandIn_v (s : State) (bs : List Byte) : (s.setRandIn bs).v = s.v := rfl
@[simp] theorem State.setRandIn_i (s : State) (bs : List Byte) : (s.setRandIn bs).i = s.i := rfl
@[simp] theorem State.setRandIn_pc (s : State) (bs : List Byte) : (s.setRandIn bs).pc = s.pc := rfl
@[simp] theorem State.setRandIn_sp (s : State) (bs : List Byte) : (s.setRandIn bs).sp = s.sp := rfl
@[simp] theorem State.setRandIn_stack (s : State) (bs : List Byte) : (s.setRandIn bs).stack = s.stack := rfl
@[simp] theorem State.setRandIn_dt (s : State) (bs : List Byte) : (s.setRandIn bs).dt = s.dt := rfl
@[simp] theorem State.setRandIn_st (s : State) (bs : List Byte) : (s.setRandIn bs).st = s.st := rfl
@[simp] theorem State.setRandIn_mem (s : State) (bs : List Byte) : (s.setRandIn bs).mem = s.mem := rfl
@[simp] theorem State.setRandIn_fb (s : State) (bs : List Byte) : (s.setRandIn bs).fb = s.fb := rfl
@[simp] theorem State.setRandIn_keys (s : State) (bs : List Byte) : (s.setRandIn bs).keys = s.keys := rfl
@[simp] theorem State.setRandIn_runState (s : State) (bs : List Byte) : (s.setRandIn bs).runState = s.runState := rfl
@[simp] theorem State.setRandIn_waitReg (s : State) (bs : List Byte) : (s.setRandIn bs).waitReg = s.waitReg := rfl
@[simp] theorem State.setRandIn_draw (s : State) (bs : List Byte) : (s.setRandIn bs).draw = s.draw := rfl
@[simp] theorem State.setRandIn_quit (s : State) (bs : List Byte) : (s.setRandIn bs).quit = s.quit := rfl
@[simp] theorem State.setRandIn_turns (s : State) (bs : List Byte) : (s.setRandIn bs).turns = s.turns := rfl
@[simp] theorem State.setRandIn_started (s : State) (bs : List Byte) : (s.setRandIn bs).started = s.started := rfl
@[simp] theorem State.setRandIn_randIn (s : State) (bs : List Byte) : (s.setRandIn bs).randIn = bs := rfl
@[simp] theorem State.setRandIn_freeCount (s : State) (bs : List Byte) : (s.setRandIn bs).freeCount = s.freeCount := rfl
@[simp] theorem State.setRandIn_getV (s : State) (bs : List Byte) (r : Nibble) : (s.setRandIn bs).getV r = s.getV r := rfl
@[simp] theorem State.setRandIn_getStack (s : State) (bs : List Byte) (j : Nibble) : (s.setRandIn bs).getStack j = s.getStack j := rfl
@[simp] theorem State.setRandIn_getKey (s : State) (bs : List Byte) (j : Nibble) : (s.setRandIn bs).getKey j = s.getKey j := rfl
@[simp] theorem State.setRandIn_dataAddr (s : State) (bs : List Byte) (n : Nat) : (s.setRandIn bs).dataAddr n = s.dataAddr n := rfl

@[simp] theorem State.bumpFree_v (s : State) : (s.bumpFree).v = s.v := rfl
@[simp] theorem State.bumpFree_i (s : State) : (s.bumpFree).i = s.i := rfl
@[simp] theorem State.bumpFree_pc (s : State) : (s.bumpFree).pc = s.pc := rfl
@[simp] theorem State.bumpFree_sp (s : State) : (s.bumpFree).sp = s.sp := rfl
@[simp] theorem State.bumpFree_stack (s : State) : (s.bumpFree).stack = s.stack := rfl
@[simp] theorem State.bumpFree_dt (s : State) : (s.bumpFree).dt = s.dt := rfl
@[simp] theorem State.bumpFree_st (s : State) : (s.bumpFree).st = s.st := rfl
@[simp] theorem State.bumpFree_mem (s : State) : (s.bumpFree).mem = s.mem := rfl
@[simp] theorem State.bumpFree_fb (s : State) : (s.bumpFree).fb = s.fb := rfl
@[simp] theorem State.bumpFree_keys (s : State) : (s.bumpFree).keys = s.keys := rfl
@[simp] theorem State.bumpFree_runState (s : State) : (s.bumpFree).runState = s.runState := rfl
@[simp] theorem State.bumpFree_waitReg (s : State) : (s.bumpFree).waitReg = s.waitReg := rfl
@[simp] theorem State.bumpFree_draw (s : State) : (s.bumpFree).draw = s.draw := rfl
@[simp] theorem State.bumpFree_quit (s : State) : (s.bumpFree).quit = s.quit := rfl
@[simp] theorem State.bumpFree_turns (s : State) : (s.bumpFree).turns = s.turns := rfl
@[simp] theorem State.bumpFree_started (s : State) : (s.bumpFree).started = s.started := rfl
@[simp] theorem State.bumpFree_randIn (s : State) : (s.bumpFree).randIn = s.randIn := rfl
@[simp] theorem State.bumpFree_freeCount (s : State) : (s.bumpFree).freeCount = s.freeCount + 1 := rfl
@[simp] theorem State.bumpFree_getV (s : State) (r : Nibble) : (s.bumpFree).getV r = s.getV r := rfl
@[simp] theorem State.bumpFree_getStack (s : State) (j : Nibble) : (s.bumpFree).getStack j = s.getStack j := rfl
@[simp] theorem State.bumpFree_getKey (s : State) (j : Nibble) : (s.bumpFree).getKey j = s.getKey j := rfl
@[simp] theorem State.bumpFree_dataAddr (s : State) (n : Nat) : (s.bumpFree).dataAddr n = s.dataAddr n := rfl

@[simp] theorem State.halt_v (s : State) : (s.halt).v = s.v := rfl
@[simp] theorem State.halt_i (s : State) : (s.halt).i = s.i := rfl
@[simp] theorem State.halt_pc (s : State) : (s.halt).pc = s.pc := rfl
@[simp] theorem State.halt_sp (s : State) : (s.halt).sp = s.sp := rfl
@[simp] theorem State.halt_stack (s : State) : (s.halt).stack = s.stack := rfl
@[simp] theorem State.halt_dt (s : State) : (s.halt).dt = s.dt := rfl
@[simp] theorem State.halt_st (s : State) : (s.halt).st = s.st := rfl
@[simp] theorem State.halt_mem (s : State) : (s.halt).mem = s.mem := rfl
@[simp] theorem State.halt_fb (s : State) : (s.halt).fb = s.fb := rfl
@[simp] theorem State.halt_keys (s : State) : (s.halt).keys = s.keys := rfl
@[simp] theorem State.halt_runState (s : State) : (s.halt).runState = .halted := rfl
@[simp] theorem State.halt_waitReg (s : State) : (s.halt).waitReg = s.waitReg := rfl
@[simp] theorem State.halt_draw (s : State) : (s.halt).draw = s.draw := rfl
@[simp] theorem State.halt_quit (s : State) : (s.halt).quit = s.quit := rfl
@[simp] theorem State.halt_turns (s : State) : (s.halt).turns = s.turns := rfl
@[simp] theorem State.halt_started (s : State) : (s.halt).started = s.started := rfl
@[simp] theorem State.halt_randIn (s : State) : (s.halt).randIn = s.randIn := rfl
@[simp] theorem State.halt_freeCount (s : State) : (s.halt).freeCount = s.freeCount := rfl
@[simp] theorem State.halt_getV (s : State) (r : Nibble) : (s.halt).getV r = s.getV r := rfl
@[simp] theorem State.halt_getStack (s : State) (j : Nibble) : (s.halt).getStack j = s.getStack j := rfl
@[simp] theorem State.halt_getKey (s : State) (j : Nibble) : (s.halt).getKey j = s.getKey j := rfl
@[simp] theorem State.halt_dataAddr (s : State) (n : Nat) : (s.halt).dataAddr n = s.dataAddr n := rfl

@[simp] theorem State.advance_v (s : State) : (s.advance).v = s.v := rfl
@[simp] theorem State.advance_i (s : State) : (s.advance).i = s.i := rfl
@[simp] theorem State.advance_pc (s : State) : (s.advance).pc = s.pc + 2#16 := rfl
@[simp] theorem State.advance_sp (s : State) : (s.advance).sp = s.sp := rfl
@[simp] theorem State.advance_stack (s : State) : (s.advance).stack = s.stack := rfl
@[simp] theorem State.advance_dt (s : State) : (s.advance).dt = s.dt := rfl
@[simp] theorem State.advance_st (s : State) : (s.advance).st = s.st := rfl
@[simp] theorem State.advance_mem (s : State) : (s.advance).mem = s.mem := rfl
@[simp] theorem State.advance_fb (s : State) : (s.advance).fb = s.fb := rfl
@[simp] theorem State.advance_keys (s : State) : (s.advance).keys = s.keys := rfl
@[simp] theorem State.advance_runState (s : State) : (s.advance).runState = s.runState := rfl
@[simp] theorem State.advance_waitReg (s : State) : (s.advance).waitReg = s.waitReg := rfl
@[simp] theorem State.advance_draw (s : State) : (s.advance).draw = false := rfl
@[simp] theorem State.advance_quit (s : State) : (s.advance).quit = s.quit := rfl
@[simp] theorem State.advance_turns (s : State) : (s.advance).turns = s.turns := rfl
@[simp] theorem State.advance_started (s : State) : (s.advance).started = true := rfl
@[simp] theorem State.advance_randIn (s : State) : (s.advance).randIn = s.randIn := rfl
@[simp] theorem State.advance_freeCount (s : State) : (s.advance).freeCount = s.freeCount := rfl
@[simp] theorem State.advance_getV (s : State) (r : Nibble) : (s.advance).getV r = s.getV r := rfl
@[simp] theorem State.advance_getStack (s : State) (j : Nibble) : (s.advance).getStack j = s.getStack j := rfl
@[simp] theorem State.advance_getKey (s : State) (j : Nibble) : (s.advance).getKey j = s.getKey j := rfl
@[simp] theorem State.advance_dataAddr (s : State) (n : Nat) : (s.advance).dataAddr n = s.dataAddr n := rfl

/-- A register reads what was last written to it, and every other register reads as before (R20). -/
@[simp] theorem State.getV_setV (s : State) (x : Nibble) (b : Byte) (r : Nibble) :
    (s.setV x b).getV r = if r = x then b else s.getV r := by
  simp only [State.getV, State.setV, Vector.getElem_set, BitVec.toNat_inj, eq_comm]

/-- A stack entry reads what was last pushed to it, and every other entry as before (R30). -/
@[simp] theorem State.getStack_setStack (s : State) (k : Nibble) (w : Word) (j : Nibble) :
    (s.setStack k w).getStack j = if j = k then w else s.getStack j := by
  simp only [State.getStack, State.setStack, Vector.getElem_set, BitVec.toNat_inj, eq_comm]

/-- A key reads as it was last set, and every other key as before (R32). -/
@[simp] theorem State.getKey_setKey (s : State) (k : Nibble) (b : Bool) (j : Nibble) :
    (s.setKey k b).getKey j = if j = k then b else s.getKey j := by
  simp only [State.getKey, State.setKey, Vector.getElem_set, BitVec.toNat_inj, eq_comm]

@[simp] theorem State.setI_dataAddr (s : State) (w : Word) (n : Nat) : (s.setI w).dataAddr n = w.toNat + n := rfl

/-- Register files that read the same in every register are the same. -/
theorem vector16_ext_nibble {α : Type} {u v : Vector α 16} (h : ∀ r : Nibble, u[r.toNat]'r.isLt = v[r.toNat]'r.isLt) :
    u = v := by
  apply Vector.ext
  intro k hk
  have := h (BitVec.ofNat 4 k)
  simpa [BitVec.toNat_ofNat, Nat.mod_eq_of_lt hk] using this

end Sys2Proof.Machine
end

