-- ==== Sys2Proof/Laws/Display.lean ====
section
/-! SUPPORT. What the framebuffer operations do, cell by cell (R190, R192, R193 of 43_display.md). -/

namespace Sys2Proof.Machine

@[simp] theorem Framebuffer.pixel_cleared (x y : Nat) : Framebuffer.cleared.pixel x y = false := by
  unfold Framebuffer.pixel Framebuffer.cleared
  split <;> simp

theorem Framebuffer.pixel_outside (fb : Framebuffer) {x y : Nat} (h : ¬(x < 64 ∧ y < 32)) : fb.pixel x y = false := by
  simp [Framebuffer.pixel, h]

/-- A flip turns its own cell and no other (R190). -/
theorem Framebuffer.pixel_flip (fb : Framebuffer) (x y px py : Nat) : (fb.flip x y).pixel px py =
    if x < 64 ∧ y < 32 ∧ px = x ∧ py = y then !fb.pixel px py else fb.pixel px py := by
  by_cases h : x < 64 ∧ y < 32
  · by_cases hp : px < 64 ∧ py < 32
    · simp only [Framebuffer.flip, Framebuffer.pixel, dif_pos hp, h.1, h.2, true_and]
      by_cases hy : y = py
      · subst hy
        by_cases hx : x = px
        · subst hx; simp
        · simp [hx, Ne.symm hx]
      · simp [hy, Ne.symm hy]
    · rw [Framebuffer.pixel_outside _ hp, Framebuffer.pixel_outside _ hp, if_neg]
      rintro ⟨h1, h2, rfl, rfl⟩
      exact hp ⟨h1, h2⟩
  · rw [Framebuffer.flip, dif_neg h, if_neg]
    rintro ⟨h1, h2, -, -⟩
    exact h ⟨h1, h2⟩

/-- Framebuffers that show the same cells are the same. -/
theorem Framebuffer.ext_of_pixel {f g : Framebuffer} (h : ∀ x y, f.pixel x y = g.pixel x y) : f = g := by
  apply Vector.ext
  intro y hy
  apply Vector.ext
  intro x hx
  simpa [Framebuffer.pixel, hx, hy] using h x y

/-- The cell is one that the first `n` bits of the sprite byte `b` cover, drawn at column x0 of row py (R192, R193). -/
def coveredByBits (x0 py : Nat) (b : Byte) (n px py' : Nat) : Bool :=
  decide (py' = py ∧ px < 64 ∧ py < 32 ∧ x0 ≤ px ∧ px < x0 + n) && b.getLsbD (7 - (px - x0))

theorem drawBits_spec (x0 py : Nat) (b : Byte) (fb : Framebuffer) (hit : Bool) (n : Nat) :
    (∀ px py', ((List.range n).foldl (drawBit x0 py b) (fb, hit)).1.pixel px py' =
      (fb.pixel px py' ^^ coveredByBits x0 py b n px py')) ∧
    (((List.range n).foldl (drawBit x0 py b) (fb, hit)).2 = true ↔
      hit = true ∨ ∃ px py', fb.pixel px py' = true ∧ coveredByBits x0 py b n px py' = true) := by
  induction n with
  | zero =>
    have h0 : ∀ px py', coveredByBits x0 py b 0 px py' = false := by
      intro px py'
      have : ¬ (py' = py ∧ px < 64 ∧ py < 32 ∧ x0 ≤ px ∧ px < x0 + 0) := by omega
      rw [coveredByBits, decide_eq_false this, Bool.false_and]
    simp [h0]
  | succ n ih =>
    obtain ⟨ih1, ih2⟩ := ih
    rw [List.range_succ, List.foldl_append, List.foldl_cons, List.foldl_nil]
    generalize (List.range n).foldl (drawBit x0 py b) (fb, hit) = acc at ih1 ih2
    have hstep : ∀ px py', coveredByBits x0 py b (n + 1) px py' =
        (coveredByBits x0 py b n px py' ||
          decide (b.getLsbD (7 - n) = true ∧ px = x0 + n ∧ py' = py ∧ x0 + n < 64 ∧ py < 32)) := by
      intro px py'
      unfold coveredByBits
      by_cases hpx : px = x0 + n
      · subst hpx
        have : x0 + n - x0 = n := by omega
        rw [this, Bool.eq_iff_iff]
        simp
        tauto
      · have : px < x0 + (n + 1) ↔ px < x0 + n := by omega
        simp [this, hpx]
    unfold drawBit
    split
    · rename_i hc
      obtain ⟨hb, hx, hy⟩ := hc
      have hfree : coveredByBits x0 py b n (x0 + n) py = false := by simp [coveredByBits]
      refine ⟨fun px py' => ?_, ?_⟩
      · simp only [Framebuffer.pixel_flip, hstep, ih1]
        by_cases heq : px = x0 + n ∧ py' = py
        · obtain ⟨rfl, rfl⟩ := heq
          have hx' : x0 + n < 64 := by omega
          have hy' : py' < 32 := by omega
          rw [if_pos ⟨hx', hy', rfl, rfl⟩, hfree]
          simp [hb, hx', hy']
        · rw [if_neg (fun h => heq h.2.2)]
          have : decide (b.getLsbD (7 - n) = true ∧ px = x0 + n ∧ py' = py ∧ x0 + n < 64 ∧ py < 32) = false := by
            simp only [decide_eq_false_iff_not]
            exact fun h => heq ⟨h.2.1, h.2.2.1⟩
          rw [this, Bool.or_false]
      · simp only [Bool.or_eq_true, ih2, ih1, hfree, Bool.xor_false, hstep, decide_eq_true_eq]
        constructor
        · rintro ((h | ⟨px, py', h1, h2⟩) | h)
          · exact .inl h
          · exact .inr ⟨px, py', h1, .inl h2⟩
          · exact .inr ⟨x0 + n, py, h, .inr ⟨hb, rfl, rfl, by omega, by omega⟩⟩
        · rintro (h | ⟨px, py', h1, h2 | ⟨-, rfl, rfl, -, -⟩⟩)
          · exact .inl (.inl h)
          · exact .inl (.inr ⟨px, py', h1, h2⟩)
          · exact .inr h1
    · rename_i hc
      have hno : ∀ px py', decide (b.getLsbD (7 - n) = true ∧ px = x0 + n ∧ py' = py ∧ x0 + n < 64 ∧ py < 32) =
          false := by
        intro px py'
        simp only [decide_eq_false_iff_not]
        rintro ⟨h1, -, -, h2, h3⟩
        exact hc ⟨h1, by omega, by omega⟩
      simp only [hstep, hno, Bool.or_false]
      exact ⟨ih1, ih2⟩

/-- One sprite row turns the cells that its set bits cover inside the grid, and reports whether one of them was set. -/
theorem drawRow_spec (x0 py : Nat) (b : Byte) (fb : Framebuffer) (hit : Bool) :
    (∀ px py', (drawRow x0 py b (fb, hit)).1.pixel px py' = (fb.pixel px py' ^^ coveredByBits x0 py b 8 px py')) ∧
    ((drawRow x0 py b (fb, hit)).2 = true ↔
      hit = true ∨ ∃ px py', fb.pixel px py' = true ∧ coveredByBits x0 py b 8 px py' = true) :=
  drawBits_spec x0 py b fb hit 8

/-- The cell is one that the rows of the sprite cover inside the grid (R192, R193). -/
def coveredByRows (x0 y0 : Nat) (rows : List Byte) (px py : Nat) : Bool :=
  decide (px < 64 ∧ py < 32 ∧ x0 ≤ px ∧ px < x0 + 8 ∧ y0 ≤ py ∧ py < y0 + rows.length) &&
  (rows.getD (py - y0) 0#8).getLsbD (7 - (px - x0))

/-- A sprite turns exactly the cells that it covers, and reports whether one of them was set. -/
theorem drawRows_spec (x0 y0 : Nat) (rows : List Byte) (fb : Framebuffer) (hit : Bool) :
    (∀ px py, (drawRows x0 y0 rows (fb, hit)).1.pixel px py = (fb.pixel px py ^^ coveredByRows x0 y0 rows px py)) ∧
    ((drawRows x0 y0 rows (fb, hit)).2 = true ↔
      hit = true ∨ ∃ px py, fb.pixel px py = true ∧ coveredByRows x0 y0 rows px py = true) := by
  induction rows generalizing y0 fb hit with
  | nil =>
    have h0 : ∀ px py, coveredByRows x0 y0 [] px py = false := by
      intro px py
      simp [coveredByRows]
    simp [drawRows, h0]
  | cons b bs ih =>
    obtain ⟨r1, r2⟩ := drawRow_spec x0 y0 b fb hit
    obtain ⟨i1, i2⟩ := ih (y0 + 1) (drawRow x0 y0 b (fb, hit)).1 (drawRow x0 y0 b (fb, hit)).2
    have hsplit : ∀ px py, coveredByRows x0 y0 (b :: bs) px py =
        (coveredByBits x0 y0 b 8 px py || coveredByRows x0 (y0 + 1) bs px py) := by
      intro px py
      unfold coveredByRows coveredByBits
      by_cases hy : py = y0
      · subst hy
        have : ¬ (py + 1 ≤ py) := by omega
        rw [Bool.eq_iff_iff]
        simp
      · by_cases hlt : y0 + 1 ≤ py
        · have e : py - y0 = (py - (y0 + 1)) + 1 := by omega
          have h1 : y0 ≤ py := by omega
          have h2 : py < y0 + (b :: bs).length ↔ py < y0 + 1 + bs.length := by simp only [List.length_cons]; omega
          simp only [e, List.getD_cons_succ, hy, h2, h1, hlt]
          simp
        · have h1 : ¬ y0 ≤ py := by omega
          simp [hy, hlt, h1]
    have hdis : ∀ px py, coveredByBits x0 y0 b 8 px py = true → coveredByRows x0 (y0 + 1) bs px py = false := by
      intro px py h
      simp only [coveredByBits, Bool.and_eq_true, decide_eq_true_eq] at h
      have : ¬ (y0 + 1 ≤ py) := by omega
      simp [coveredByRows, this]
    refine ⟨fun px py => ?_, ?_⟩
    · rw [drawRows, ← Prod.eta (drawRow x0 y0 b (fb, hit)), i1, r1, hsplit]
      cases h : coveredByBits x0 y0 b 8 px py
      · simp
      · simp [hdis px py h]
    · rw [drawRows, ← Prod.eta (drawRow x0 y0 b (fb, hit)), i2, r2]
      simp only [hsplit, r1, Bool.or_eq_true]
      constructor
      · rintro ((h | ⟨px, py, h1, h2⟩) | ⟨px, py, h1, h2⟩)
        · exact .inl h
        · exact .inr ⟨px, py, h1, .inl h2⟩
        · cases hb : coveredByBits x0 y0 b 8 px py
          · rw [hb, Bool.xor_false] at h1
            exact .inr ⟨px, py, h1, .inr h2⟩
          · rw [hdis px py hb] at h2
            exact absurd h2 (by simp)
      · rintro (h | ⟨px, py, h1, h2 | h2⟩)
        · exact .inl (.inl h)
        · exact .inl (.inr ⟨px, py, h1, h2⟩)
        · cases hb : coveredByBits x0 y0 b 8 px py
          · refine .inr ⟨px, py, ?_, h2⟩
            rw [hb, h1]
            rfl
          · rw [hdis px py hb] at h2
            exact absurd h2 (by simp)

end Sys2Proof.Machine
end

