-- ==== Sys2Proof/Laws/Memory.lean ====
section
/-! SUPPORT. The laws of main memory: a read after a write, the canonical form that every operation keeps, and that equal
contents are equal memories (R62 of 20_memory.md, log 1). -/

namespace Sys2Proof.Machine

@[simp] theorem Memory.read_nil (a : Nat) : Memory.read [] a = Memory.blank a := rfl

@[simp] theorem Memory.read_cons (c : Host.Cell) (m : Memory) (a : Nat) :
    Memory.read (c :: m) a = if a = c.1 then c.2 else Memory.read m a := rfl

/-- An address below every listed one reads as unlisted. -/
theorem Memory.read_of_lt {m : Memory} {a : Nat} (h : ∀ c ∈ m, a < c.1) : m.read a = Memory.blank a := by
  induction m with
  | nil => rfl
  | cons c m ih =>
    have hc := h c (List.mem_cons_self ..)
    rw [Memory.read_cons, if_neg (by omega)]
    exact ih fun d hd => h d (List.mem_cons_of_mem _ hd)

theorem Memory.entry_read_append {a : Nat} (b : Byte) (m : Memory) (c : Nat) :
    Memory.read (Memory.entry a b ++ m) c =
      if c = a then (if b = Memory.blank a then m.read c else b) else m.read c := by
  unfold Memory.entry
  split <;> simp_all

/-- A write leaves every other address alone, in any list. -/
theorem Memory.read_write_ne (m : Memory) {a c : Nat} (b : Byte) (h : c ≠ a) : (m.write a b).read c = m.read c := by
  induction m with
  | nil =>
    have := Memory.entry_read_append (a := a) b [] c
    simpa [Memory.write, h] using this
  | cons d m ih =>
    unfold Memory.write
    split
    · rw [Memory.entry_read_append, if_neg h]
    · split
      · rename_i hd
        rw [Memory.entry_read_append, if_neg h, Memory.read_cons, if_neg (by omega)]
      · simp [ih]

/-- In canonical memory a read after a write to the same address gives the byte written (R62). -/
theorem Memory.read_write_self {m : Memory} (hm : m.wf) (a : Nat) (b : Byte) : (m.write a b).read a = b := by
  induction m with
  | nil =>
    have := Memory.entry_read_append (a := a) b [] a
    simp only [List.append_nil, if_true, Memory.read_nil] at this
    rw [Memory.write, this]
    split <;> simp_all
  | cons d m ih =>
    obtain ⟨hp, hb⟩ := hm
    rw [List.pairwise_cons] at hp
    unfold Memory.write
    split
    · rename_i hlt
      rw [Memory.entry_read_append, if_pos rfl]
      split
      · rename_i hbl
        rw [hbl, Memory.read_of_lt]
        intro c hc
        rcases List.mem_cons.1 hc with rfl | hc
        · exact hlt
        · exact Nat.lt_trans hlt (hp.1 c hc)
      · rfl
    · split
      · rename_i had
        rw [Memory.entry_read_append, if_pos rfl]
        split
        · rename_i hbl
          rw [hbl, Memory.read_of_lt]
          intro c hc
          rw [had]
          exact hp.1 c hc
        · rfl
      · rename_i hne
        rw [Memory.read_cons, if_neg hne]
        exact ih ⟨hp.2, fun c hc => hb c (List.mem_cons_of_mem _ hc)⟩

theorem Memory.wf_nil : Memory.wf [] := ⟨List.Pairwise.nil, fun _ h => nomatch h⟩

theorem Memory.mem_write {m : Memory} {a : Nat} {b : Byte} {c : Host.Cell} (h : c ∈ m.write a b) :
    c ∈ m ∨ (c = (a, b) ∧ b ≠ Memory.blank a) := by
  have key : ∀ {l : Memory}, c ∈ Memory.entry a b ++ l → c ∈ l ∨ (c = (a, b) ∧ b ≠ Memory.blank a) := by
    intro l hl
    unfold Memory.entry at hl
    split at hl
    · exact .inl (by simpa using hl)
    · rcases List.mem_append.1 hl with h1 | h1
      · exact .inr ⟨by simpa using h1, ‹_›⟩
      · exact .inl h1
  induction m with
  | nil => exact key (l := []) (by simpa [Memory.write] using h)
  | cons d m ih =>
    unfold Memory.write at h
    split at h
    · exact key h
    · split at h
      · rcases key h with h1 | h1
        · exact .inl (List.mem_cons_of_mem _ h1)
        · exact .inr h1
      · rcases List.mem_cons.1 h with rfl | h1
        · exact .inl (List.mem_cons_self ..)
        · rcases ih h1 with h2 | h2
          · exact .inl (List.mem_cons_of_mem _ h2)
          · exact .inr h2

/-- A write keeps the canonical form. -/
theorem Memory.write_wf {m : Memory} (hm : m.wf) {a : Nat} (ha : a < 4096) (b : Byte) : (m.write a b).wf := by
  refine ⟨?_, fun c hc => ?_⟩
  · have hp := hm.1
    clear hm
    have key : ∀ {l : Memory}, (∀ c ∈ l, a < c.1) → l.Pairwise (fun c d => c.1 < d.1) →
        (Memory.entry a b ++ l).Pairwise (fun c d => c.1 < d.1) := by
      intro l hl hlp
      unfold Memory.entry
      split
      · simpa using hlp
      · simpa using ⟨fun x y h => hl _ h, hlp⟩
    induction m with
    | nil => simpa [Memory.write] using key (l := []) (by simp) (by simp)
    | cons d m ih =>
      rw [List.pairwise_cons] at hp
      unfold Memory.write
      split
      · rename_i hlt
        refine key (fun c hc => ?_) (List.pairwise_cons.2 hp)
        rcases List.mem_cons.1 hc with rfl | hc
        · exact hlt
        · exact Nat.lt_trans hlt (hp.1 c hc)
      · split
        · rename_i had
          exact key (fun c hc => had ▸ hp.1 c hc) hp.2
        · refine List.pairwise_cons.2 ⟨fun c hc => ?_, ih hp.2⟩
          rcases Memory.mem_write hc with h1 | ⟨rfl, -⟩
          · exact hp.1 c h1
          · show d.1 < a
            omega
  · rcases Memory.mem_write hc with h1 | ⟨rfl, h2⟩
    · exact hm.2 c h1
    · exact ⟨ha, h2⟩

/-- Writing to canonical memory the byte that is there changes nothing. -/
theorem Memory.write_read_self {m : Memory} (hm : m.wf) (a : Nat) : m.write a (m.read a) = m := by
  induction m with
  | nil => simp [Memory.write, Memory.entry]
  | cons d m ih =>
    obtain ⟨hp, hb⟩ := hm
    rw [List.pairwise_cons] at hp
    have hd := hb d (List.mem_cons_self ..)
    unfold Memory.write
    split
    · rename_i hlt
      have : Memory.read (d :: m) a = Memory.blank a := by
        apply Memory.read_of_lt
        intro c hc
        rcases List.mem_cons.1 hc with rfl | hc
        · exact hlt
        · exact Nat.lt_trans hlt (hp.1 c hc)
      simp [Memory.entry, this]
    · split
      · rename_i had
        simp only [Memory.read_cons, if_pos had, Memory.entry]
        rw [had, if_neg hd.2]
        rfl
      · rename_i hne
        rw [Memory.read_cons, if_neg hne, ih ⟨hp.2, fun c hc => hb c (List.mem_cons_of_mem _ hc)⟩]

/-- Canonical memories that read the same at every address of the machine are equal. -/
theorem Memory.ext_of_read {m n : Memory} (hm : m.wf) (hn : n.wf) (h : ∀ a, a < 4096 → m.read a = n.read a) : m = n := by
  induction m generalizing n with
  | nil =>
    cases n with
    | nil => rfl
    | cons d n =>
      have hd := hn.2 d (List.mem_cons_self ..)
      have := h d.1 hd.1
      simp at this
      exact absurd this.symm hd.2
  | cons c m ih =>
    have hc := hm.2 c (List.mem_cons_self ..)
    have hmp := List.pairwise_cons.1 hm.1
    cases n with
    | nil =>
      have := h c.1 hc.1
      simp at this
      exact absurd this hc.2
    | cons d n =>
      have hd := hn.2 d (List.mem_cons_self ..)
      have hnp := List.pairwise_cons.1 hn.1
      have below : ∀ {e f : Host.Cell} {l : Memory}, (∀ g ∈ l, f.1 < g.1) → e.1 < f.1 →
          Memory.read (f :: l) e.1 = Memory.blank e.1 := by
        intro e f l hl hef
        apply Memory.read_of_lt
        intro g hg
        rcases List.mem_cons.1 hg with rfl | hg
        · exact hef
        · exact Nat.lt_trans hef (hl g hg)
      rcases Nat.lt_trichotomy c.1 d.1 with hlt | heq | hgt
      · have := h c.1 hc.1
        rw [below hnp.1 hlt] at this
        simp at this
        exact absurd this hc.2
      · have h2 := h c.1 hc.1
        simp [heq] at h2
        have hcd : c = d := Prod.ext heq h2
        subst hcd
        have hmw : Memory.wf m := ⟨hmp.2, fun e he => hm.2 e (List.mem_cons_of_mem _ he)⟩
        have hnw : Memory.wf n := ⟨hnp.2, fun e he => hn.2 e (List.mem_cons_of_mem _ he)⟩
        rw [ih hmw hnw]
        intro a ha
        by_cases hac : a = c.1
        · subst hac
          rw [Memory.read_of_lt hmp.1, Memory.read_of_lt hnp.1]
        · have := h a ha
          simpa [hac] using this
      · have := h d.1 hd.1
        rw [below hmp.1 hgt] at this
        simp at this
        exact absurd this.symm hd.2

/-- Bytes written from an address on, at the addresses themselves, lie there, and every other address reads as before. -/
theorem Memory.read_writeFrom {m : Memory} (hm : m.wf) (base : Nat) (bs : List Byte) (hb : base + bs.length ≤ 4096)
    (a : Nat) : (m.writeFrom (fun x => x) base bs).read a =
      if h : base ≤ a ∧ a < base + bs.length then bs[a - base] else m.read a := by
  induction bs generalizing m base with
  | nil => simp [Memory.writeFrom]
  | cons b bs ih =>
    simp only [List.length_cons] at hb
    rw [Memory.writeFrom, ih (Memory.write_wf hm (by omega) b) (base + 1) (by omega)]
    by_cases h1 : base + 1 ≤ a ∧ a < base + 1 + bs.length
    · rw [dif_pos h1, dif_pos (by simp only [List.length_cons]; omega)]
      have : a - base = (a - (base + 1)) + 1 := by omega
      simp [this]
    · rw [dif_neg h1]
      by_cases h2 : a = base
      · subst h2
        rw [Memory.read_write_self hm, dif_pos (by simp)]
        simp
      · rw [Memory.read_write_ne _ _ h2, dif_neg (by simp only [List.length_cons]; omega)]

/-- Bytes written from an address on leave every address outside them alone, in any list. -/
theorem Memory.read_writeFrom_outside (m : Memory) (base : Nat) (bs : List Byte) {a : Nat}
    (h : a < base ∨ base + bs.length ≤ a) : (m.writeFrom (fun x => x) base bs).read a = m.read a := by
  induction bs generalizing m base with
  | nil => rfl
  | cons b bs ih =>
    simp only [List.length_cons] at h
    rw [Memory.writeFrom, ih _ _ (by omega), Memory.read_write_ne _ _ (by omega)]

/-- Bytes written inside memory keep the canonical form. -/
theorem Memory.writeFrom_wf {m : Memory} (hm : m.wf) (base : Nat) (bs : List Byte) (hb : base + bs.length ≤ 4096) :
    (m.writeFrom (fun x => x) base bs).wf := by
  induction bs generalizing m base with
  | nil => exact hm
  | cons b bs ih =>
    simp only [List.length_cons] at hb
    have hlt : base < 4096 := by omega
    exact ih (Memory.write_wf hm hlt b) (base + 1) (by omega)

@[simp] theorem Memory.length_readFrom (place : Nat → Nat) (m : Memory) (base count : Nat) :
    (m.readFrom place base count).length = count := by simp [Memory.readFrom]

@[simp] theorem Memory.getElem_readFrom (place : Nat → Nat) (m : Memory) (base count k : Nat)
    (h : k < (m.readFrom place base count).length) :
    (m.readFrom place base count)[k] = m.read (place (base + k)) := by simp [Memory.readFrom]

/-- The memory of a list of at most 4096 bytes: its canonical form and its bytes. -/
theorem Memory.ofBytes_wf (bs : List Byte) (h : bs.length ≤ 4096) : (Memory.ofBytes bs).wf :=
  Memory.writeFrom_wf Memory.wf_nil 0 bs (by omega)

theorem Memory.read_ofBytes (bs : List Byte) (h : bs.length ≤ 4096) (a : Nat) :
    (Memory.ofBytes bs).read a = if h : a < bs.length then bs[a] else Memory.blank a := by
  rw [Memory.ofBytes, Memory.read_writeFrom Memory.wf_nil 0 bs (by omega)]
  simp

end Sys2Proof.Machine
end

