-- ==== Sys2Proof/Laws/Ops.lean ====
section
/-! SUPPORT. What each shared operation does, once: the stack slot, the skip, the free inputs, the span check, the stores
and loads at I, and the result with its flag. -/

namespace Sys2Proof.Machine

/-! ### The policies that Config chooses -/

/-- An index up to 15 selects the entry of that number, any other none (R78, D3). -/
theorem stackSlot_chosen (index : Byte) : stackSlot Config.stackIndexPolicy index =
    if index.toNat ≤ 15 then some (index.setWidth 4) else none := rfl

/-- The alternative the spec names: the index mod 16 (D3). -/
theorem stackSlot_wrap16 (index : Byte) : stackSlot .wrap16 index = some (index.setWidth 4) := rfl

@[simp] theorem placeData_chosen : placeData Config.dataAddrPolicy = fun a => a := rfl

theorem spanFault_chosen (s : State) (count : Nat) : s.spanFault Config.dataAddrPolicy count =
    if 0 < count ∧ 0xFFF < s.dataAddr (count - 1) then some (s.dataAddr (count - 1)) else none := rfl

theorem fetchFails_chosen (pc : Word) : fetchFails Config.oddPcHalts pc = decide (0xFFE < pc.toNat) := by
  simp [fetchFails, Config.oddPcHalts]

/-! ### The span check -/

/-- An access inside memory, or of no bytes, goes through (R63). -/
theorem State.withSpan_next {s : State} {count : Nat} (t : State) (h : count = 0 ∨ s.i.toNat + count - 1 ≤ 0xFFF) :
    s.withSpan count t = .next t := by
  have : ¬ (0 < count ∧ 0xFFF < s.i.toNat + (count - 1)) := by omega
  simp [State.withSpan, spanFault_chosen, State.dataAddr, this]

/-- An access past memory is the marker with its highest address (R63). -/
theorem State.withSpan_fault {s : State} {count : Nat} (t : State) (h0 : 0 < count)
    (h : 0xFFF < s.i.toNat + (count - 1)) :
    s.withSpan count t = .fault (.undefinedDataAddress (s.i.toNat + (count - 1))) := by
  simp [State.withSpan, spanFault_chosen, State.dataAddr, h0, h]

/-- Everything the span check can answer. -/
theorem State.withSpan_cases (s : State) (count : Nat) (t : State) :
    (s.withSpan count t = .next t ∧ (count = 0 ∨ s.i.toNat + count - 1 ≤ 0xFFF)) ∨
    (0 < count ∧ 0xFFF < s.i.toNat + (count - 1) ∧
      s.withSpan count t = .fault (.undefinedDataAddress (s.i.toNat + (count - 1)))) := by
  by_cases h : count = 0 ∨ s.i.toNat + count - 1 ≤ 0xFFF
  · exact .inl ⟨State.withSpan_next t h, h⟩
  · exact .inr ⟨by omega, by omega, State.withSpan_fault t (by omega) (by omega)⟩

/-! ### The skip -/

theorem State.skipIf_eq (s : State) (c : Bool) : s.skipIf c = s.setPc (if c then s.pc + 2#16 else s.pc) := by
  cases c <;> rfl

/-! ### The free inputs -/

/-- Everything the random port can answer (R151): the queued byte, else a free value. -/
theorem State.drawByte_cases (s : State) :
    (∃ b bs, s.randIn = b :: bs ∧ s.drawByte = (b, s.setRandIn bs)) ∨
    (s.randIn = [] ∧ s.drawByte = (Config.freeByte s.freeCount, s.bumpFree)) := by
  unfold State.drawByte
  cases h : s.randIn with
  | nil => exact .inr ⟨rfl, rfl⟩
  | cons b bs => exact .inl ⟨b, bs, rfl, rfl⟩

/-- Everything the key query can answer (R200). -/
theorem State.queryKey_cases (s : State) (k : Byte) :
    (k.toNat ≤ 15 ∧ s.queryKey k = (s.getKey (k.setWidth 4), s)) ∨
    (15 < k.toNat ∧ s.queryKey k = (Config.freeKey s.freeCount, s.bumpFree)) := by
  by_cases h : k.toNat ≤ 15
  · exact .inl ⟨h, by simp [State.queryKey, h]⟩
  · exact .inr ⟨by omega, by simp [State.queryKey, h]⟩

/-! ### The result and its flag -/

/-- VF holds the flag, V[x] the result unless x = 15, and the other registers what they held (R153). -/
theorem State.getV_setWithFlag (s : State) (x : Nibble) (result flag : Byte) (r : Nibble) :
    (s.setWithFlag x result flag).getV r = if r = 0xF#4 then flag else if r = x then result else s.getV r := by
  simp [State.setWithFlag]

/-! ### Stores and loads at I -/

/-- A store at I writes memory and nothing else. -/
theorem State.storeBytes_eq (s : State) (bs : List Byte) :
    s.storeBytes bs = s.setMem (s.mem.writeFrom (fun a => a) s.i.toNat bs) := rfl

@[simp] theorem State.length_loadBytes (s : State) (count : Nat) : (s.loadBytes count).length = count := by
  simp [State.loadBytes]

/-- The k-th byte loaded is the one at I + k (R176). -/
theorem State.getElem_loadBytes (s : State) (count k : Nat) (h : k < (s.loadBytes count).length) :
    (s.loadBytes count)[k] = s.mem.read (s.dataAddr k) := by
  simp [State.loadBytes, State.dataAddr]

@[simp] theorem State.length_firstRegs (s : State) (count : Nat) : (s.firstRegs count).length = count := by
  simp [State.firstRegs]

theorem State.getElem_firstRegs (s : State) (count k : Nat) (h : k < (s.firstRegs count).length) :
    (s.firstRegs count)[k] = s.getV (BitVec.ofNat 4 k) := by
  simp [State.firstRegs]

/-- Loading registers writes the register file and nothing else. -/
theorem State.loadRegsFrom_eq (s : State) (k : Nat) (bs : List Byte) :
    s.loadRegsFrom k bs = { s with v := (s.loadRegsFrom k bs).v } := by
  induction bs generalizing s k with
  | nil => rfl
  | cons b bs ih =>
    rw [State.loadRegsFrom, ih]
    rfl

/-- V[k + j] takes the j-th byte, and the other registers keep theirs (R175). -/
theorem State.getV_loadRegsFrom (s : State) (k : Nat) (bs : List Byte) (hb : k + bs.length ≤ 16) (r : Nibble) :
    (s.loadRegsFrom k bs).getV r =
      if h : k ≤ r.toNat ∧ r.toNat < k + bs.length then bs[r.toNat - k] else s.getV r := by
  induction bs generalizing s k with
  | nil =>
    rw [dif_neg (by simp only [List.length_nil]; omega)]
    rfl
  | cons b bs ih =>
    simp only [List.length_cons] at hb
    have hk : (BitVec.ofNat 4 k).toNat = k := by simp; omega
    rw [State.loadRegsFrom, ih (s.setV (BitVec.ofNat 4 k) b) (k + 1) (by omega)]
    by_cases h1 : k + 1 ≤ r.toNat ∧ r.toNat < k + 1 + bs.length
    · rw [dif_pos h1, dif_pos (by simp only [List.length_cons]; omega)]
      have : r.toNat - k = (r.toNat - (k + 1)) + 1 := by omega
      simp [this]
    · rw [dif_neg h1, State.getV_setV]
      by_cases h2 : r = BitVec.ofNat 4 k
      · have hr : r.toNat = k := by rw [h2, hk]
        rw [if_pos h2, dif_pos (by simp only [List.length_cons]; omega)]
        simp [hr]
      · have hr : r.toNat ≠ k := fun h => h2 (BitVec.eq_of_toNat_eq (by rw [h, hk]))
        rw [if_neg h2, dif_neg (by simp only [List.length_cons]; omega)]

/-! ### Turns -/

/-- The turns to come replaced by themselves: the same state. -/
@[simp] theorem State.setTurns_self (s : State) : s.setTurns s.turns = s := rfl

end Sys2Proof.Machine
end

