-- ==== Sys2Proof/Laws/PerInstr.lean ====
section
/-! SUPPORT. Statements per instruction. EncodeFitsRow: the word that the encoder writes fits the instruction's row of the
opcode map (R100), whose mnemonic is the one LAWS.json gives it. -/

namespace Sys2Proof.Laws.EncodeFitsRow

open BitVec

/-- The encoded word fits the row of the instruction (R100). -/
def Statement (i : Instr) : Prop := i.row.fits (encode i) = true

theorem fits_formatFA (m : String) (f : Nibble) (a : Addr) :
    (OpcodeRow.mk m (f ++ 0x000#12) (0xF#4 ++ 0x000#12)).fits (formatFA f a) = true := by
  have h : (formatFA f a &&& (0xF#4 ++ 0x000#12 : Word)) = (f &&& 0xF#4) ++ (a &&& 0x000#12) := and_append
  simp only [OpcodeRow.fits, h, beq_iff_eq]
  rw [show f &&& 0xF#4 = f from BitVec.and_allOnes (x := f), BitVec.and_zero]

theorem fits_formatFK (m : String) (f x : Nibble) (k : Byte) :
    (OpcodeRow.mk m (f ++ 0x0#4 ++ 0x00#8) (0xF#4 ++ 0x0#4 ++ 0x00#8)).fits (formatFK f x k) = true := by
  have h : (formatFK f x k &&& (0xF#4 ++ 0x0#4 ++ 0x00#8 : Word)) =
      ((f &&& 0xF#4) ++ (x &&& 0x0#4)) ++ (k &&& 0x00#8) := and_append.trans (congrArg (· ++ _) and_append)
  simp only [OpcodeRow.fits, h, beq_iff_eq]
  rw [show f &&& 0xF#4 = f from BitVec.and_allOnes (x := f), BitVec.and_zero, BitVec.and_zero]

theorem fits_formatFX (m : String) (f x : Nibble) (k : Byte) :
    (OpcodeRow.mk m (f ++ 0x0#4 ++ k) (0xF#4 ++ 0x0#4 ++ 0xFF#8)).fits (formatFX f x k) = true := by
  have h : (formatFX f x k &&& (0xF#4 ++ 0x0#4 ++ 0xFF#8 : Word)) =
      ((f &&& 0xF#4) ++ (x &&& 0x0#4)) ++ (k &&& 0xFF#8) := and_append.trans (congrArg (· ++ _) and_append)
  simp only [OpcodeRow.fits, h, beq_iff_eq]
  rw [show f &&& 0xF#4 = f from BitVec.and_allOnes (x := f), BitVec.and_zero,
    show k &&& 0xFF#8 = k from BitVec.and_allOnes (x := k)]

theorem fits_formatFR (m : String) (f x y n : Nibble) :
    (OpcodeRow.mk m (f ++ 0x0#4 ++ 0x0#4 ++ n) (0xF#4 ++ 0x0#4 ++ 0x0#4 ++ 0xF#4)).fits (formatFR f x y n) = true := by
  have h : (formatFR f x y n &&& (0xF#4 ++ 0x0#4 ++ 0x0#4 ++ 0xF#4 : Word)) =
      (((f &&& 0xF#4) ++ (x &&& 0x0#4)) ++ (y &&& 0x0#4)) ++ (n &&& 0xF#4) :=
    and_append.trans (congrArg (· ++ _) (and_append.trans (congrArg (· ++ _) and_append)))
  simp only [OpcodeRow.fits, h, beq_iff_eq]
  rw [show f &&& 0xF#4 = f from BitVec.and_allOnes (x := f), BitVec.and_zero, BitVec.and_zero,
    show n &&& 0xF#4 = n from BitVec.and_allOnes (x := n)]

theorem fits_formatFD (m : String) (f x y n : Nibble) :
    (OpcodeRow.mk m (f ++ 0x0#4 ++ 0x0#4 ++ 0x0#4) (0xF#4 ++ 0x0#4 ++ 0x0#4 ++ 0x0#4)).fits (formatFR f x y n) = true := by
  have h : (formatFR f x y n &&& (0xF#4 ++ 0x0#4 ++ 0x0#4 ++ 0x0#4 : Word)) =
      (((f &&& 0xF#4) ++ (x &&& 0x0#4)) ++ (y &&& 0x0#4)) ++ (n &&& 0x0#4) :=
    and_append.trans (congrArg (· ++ _) (and_append.trans (congrArg (· ++ _) and_append)))
  simp only [OpcodeRow.fits, h, beq_iff_eq]
  rw [show f &&& 0xF#4 = f from BitVec.and_allOnes (x := f), BitVec.and_zero, BitVec.and_zero, BitVec.and_zero]

theorem cls : Statement .cls := rfl

theorem ret : Statement .ret := rfl

theorem jp (nnn : Addr) : Statement (.jp nnn) := fits_formatFA "JP_nnn" 0x1#4 nnn

theorem call (nnn : Addr) : Statement (.call nnn) := fits_formatFA "CALL_nnn" 0x2#4 nnn

theorem seImm (x : Nibble) (kk : Byte) : Statement (.seImm x kk) := fits_formatFK "SE_Vx__kk" 0x3#4 x kk

theorem sneImm (x : Nibble) (kk : Byte) : Statement (.sneImm x kk) := fits_formatFK "SNE_Vx__kk" 0x4#4 x kk

theorem seReg (x y n : Nibble) : Statement (.seReg x y n) := fits_formatFD "SE_Vx__Vy" 0x5#4 x y n

theorem ldImm (x : Nibble) (kk : Byte) : Statement (.ldImm x kk) := fits_formatFK "LD_Vx__kk" 0x6#4 x kk

theorem addImm (x : Nibble) (kk : Byte) : Statement (.addImm x kk) := fits_formatFK "ADD_Vx__kk" 0x7#4 x kk

theorem ldReg (x y : Nibble) : Statement (.ldReg x y) := fits_formatFR "LD_Vx__Vy" 0x8#4 x y 0x0#4

theorem orReg (x y : Nibble) : Statement (.orReg x y) := fits_formatFR "OR_Vx__Vy" 0x8#4 x y 0x1#4

theorem andReg (x y : Nibble) : Statement (.andReg x y) := fits_formatFR "AND_Vx__Vy" 0x8#4 x y 0x2#4

theorem xorReg (x y : Nibble) : Statement (.xorReg x y) := fits_formatFR "XOR_Vx__Vy" 0x8#4 x y 0x3#4

theorem addReg (x y : Nibble) : Statement (.addReg x y) := fits_formatFR "ADD_Vx__Vy" 0x8#4 x y 0x4#4

theorem subReg (x y : Nibble) : Statement (.subReg x y) := fits_formatFR "SUB_Vx__Vy" 0x8#4 x y 0x5#4

theorem shr (x y : Nibble) : Statement (.shr x y) := fits_formatFR "SHR_Vx" 0x8#4 x y 0x6#4

theorem subnReg (x y : Nibble) : Statement (.subnReg x y) := fits_formatFR "SUBN_Vx__Vy" 0x8#4 x y 0x7#4

theorem shl (x y : Nibble) : Statement (.shl x y) := fits_formatFR "SHL_Vx" 0x8#4 x y 0xE#4

theorem sneReg (x y n : Nibble) : Statement (.sneReg x y n) := fits_formatFD "SNE_Vx__Vy" 0x9#4 x y n

theorem ldI (nnn : Addr) : Statement (.ldI nnn) := fits_formatFA "LD_I__nnn" 0xA#4 nnn

theorem jpV0 (nnn : Addr) : Statement (.jpV0 nnn) := fits_formatFA "JP_V0__nnn" 0xB#4 nnn

theorem rnd (x : Nibble) (kk : Byte) : Statement (.rnd x kk) := fits_formatFK "RND_Vx__kk" 0xC#4 x kk

theorem drw (x y n : Nibble) : Statement (.drw x y n) := fits_formatFD "DRW_Vx__Vy__n" 0xD#4 x y n

theorem skp (x : Nibble) : Statement (.skp x) := fits_formatFX "SKP_Vx" 0xE#4 x 0x9E#8

theorem sknp (x : Nibble) : Statement (.sknp x) := fits_formatFX "SKNP_Vx" 0xE#4 x 0xA1#8

theorem ldVxDt (x : Nibble) : Statement (.ldVxDt x) := fits_formatFX "LD_Vx__DT" 0xF#4 x 0x07#8

theorem ldVxK (x : Nibble) : Statement (.ldVxK x) := fits_formatFX "LD_Vx__K" 0xF#4 x 0x0A#8

theorem ldDtVx (x : Nibble) : Statement (.ldDtVx x) := fits_formatFX "LD_DT__Vx" 0xF#4 x 0x15#8

theorem ldStVx (x : Nibble) : Statement (.ldStVx x) := fits_formatFX "LD_ST__Vx" 0xF#4 x 0x18#8

theorem addIVx (x : Nibble) : Statement (.addIVx x) := fits_formatFX "ADD_I__Vx" 0xF#4 x 0x1E#8

theorem ldFVx (x : Nibble) : Statement (.ldFVx x) := fits_formatFX "LD_F__Vx" 0xF#4 x 0x29#8

theorem ldBVx (x : Nibble) : Statement (.ldBVx x) := fits_formatFX "LD_B__Vx" 0xF#4 x 0x33#8

theorem ldMemVx (x : Nibble) : Statement (.ldMemVx x) := fits_formatFX "LD__I___Vx" 0xF#4 x 0x55#8

theorem ldVxMem (x : Nibble) : Statement (.ldVxMem x) := fits_formatFX "LD_Vx___I" 0xF#4 x 0x65#8

theorem nop (w : Word) : Statement (.nop w) := by
  simp [Statement, Instr.row, OpcodeRow.fits]

end Sys2Proof.Laws.EncodeFitsRow
end

