-- ==== Sys2Proof/Laws/Snapshot.lean ====
section
/-! SUPPORT. What the host operations and reset do, one part at a time: the parts of a snapshot image, a restored state,
a reset state. -/

namespace Sys2Proof.Machine

/-! ### Images as lists of parts -/

theorem byteAt_append_left {a : List Byte} (b : List Byte) {k : Nat} (h : k < a.length) :
    byteAt (a ++ b) k = byteAt a k := List.getD_append _ _ _ _ h

theorem byteAt_append_right {a : List Byte} {n : Nat} (h : a.length = n) (b : List Byte) (k : Nat) :
    byteAt (a ++ b) (n + k) = byteAt b k := by
  unfold byteAt
  rw [List.getD_append_right _ _ _ _ (by omega)]
  congr 1
  omega

theorem length_flatMap_const {α : Type} {f : α → List Byte} {c : Nat} (hf : ∀ a, (f a).length = c) (l : List α) :
    (l.flatMap f).length = c * l.length := by
  induction l with
  | nil => rfl
  | cons a l ih => rw [List.flatMap_cons, List.length_append, ih, hf, List.length_cons, Nat.mul_add]; omega

/-- The k-th word of a sequence of words lies at offset 2 * k. -/
theorem wordAt_flatMap (l : List Word) (k : Nat) (h : k < l.length) : wordAt (l.flatMap bytesOfWord) (2 * k) = l[k] := by
  induction l generalizing k with
  | nil => simp at h
  | cons a l ih =>
    cases k with
    | zero => exact wordOfBytes_bytesOfWord a
    | succ k =>
      rw [List.getElem_cons_succ, ← ih k (by simpa using h), List.flatMap_cons]
      unfold wordAt
      rw [show 2 * (k + 1) = 2 + 2 * k by omega, show 2 + 2 * k + 1 = 2 + (2 * k + 1) by omega,
        byteAt_append_right (length_bytesOfWord a), byteAt_append_right (length_bytesOfWord a)]

/-- A colour is its four bytes, big-endian (R266). -/
theorem colorAt_bytesOfColor (c : BitVec 32) (rest : List Byte) : colorAt (bytesOfColor c ++ rest) 0 = c := by
  show wordOfBytes (c.extractLsb' 24 8) (c.extractLsb' 16 8) ++ wordOfBytes (c.extractLsb' 8 8) (c.extractLsb' 0 8) = c
  apply BitVec.eq_of_getLsbD_eq
  intro i hi
  simp only [wordOfBytes, BitVec.getLsbD_append, BitVec.getLsbD_extractLsb']
  by_cases h : i < 8
  · simp [h, show i < 16 by omega]
  · by_cases h2 : i < 16
    · simp [h, h2, show i - 8 < 8 by omega]
      congr 1
      omega
    · by_cases h3 : i - 16 < 8
      · simp [h2, h3]
        congr 1
        omega
      · simp [h2, h3, show i - 16 - 8 < 8 by omega]
        congr 1
        omega

/-- The k-th colour of a sequence of colours lies at offset 4 * k. -/
theorem colorAt_flatMap {α : Type} (f : α → BitVec 32) (l : List α) (k : Nat) (h : k < l.length) :
    colorAt (l.flatMap fun n => bytesOfColor (f n)) (4 * k) = f l[k] := by
  induction l generalizing k with
  | nil => simp at h
  | cons a l ih =>
    rw [List.flatMap_cons]
    cases k with
    | zero => exact colorAt_bytesOfColor (f a) _
    | succ k =>
      rw [List.getElem_cons_succ, ← ih k (by simpa using h)]
      have key : ∀ j, byteAt (bytesOfColor (f a) ++ l.flatMap fun n => bytesOfColor (f n)) (4 + j) =
          byteAt (l.flatMap fun n => bytesOfColor (f n)) j := byteAt_append_right (n := 4) rfl _
      unfold colorAt wordAt
      rw [show 4 * (k + 1) = 4 + 4 * k by omega, show 4 + 4 * k + 2 = 4 + (4 * k + 2) by omega,
        show 4 + 4 * k + 1 = 4 + (4 * k + 1) by omega, show 4 + (4 * k + 2) + 1 = 4 + (4 * k + 2 + 1) by omega,
        key, key, key, key]

theorem length_colors (n : Nat) (f : Fin n → BitVec 32) :
    ((List.finRange n).flatMap fun k => bytesOfColor (f k)).length = 4 * n := by
  rw [length_flatMap_const (f := fun k => bytesOfColor (f k)) (c := 4) fun _ => rfl, List.length_finRange]

theorem clearColor_ne_setColor : clearColor ≠ Config.setColor := by
  unfold clearColor
  split
  · intro h
    have := congrArg (fun w => BitVec.getLsbD w 0) h
    simp at this
  · assumption

/-- A cell is read back from its colour, whatever the two colours are (R266, R267). -/
@[simp] theorem colorIsSet_colorOf (set : Bool) : colorIsSet (colorOf set) = set := by
  unfold colorIsSet colorOf
  cases set <;> simp [clearColor_ne_setColor]

/-! ### Memories from functions -/

/-- The memory whose bytes below `n` a function gives: its canonical form and its bytes. -/
theorem Memory.ofBytes_range_wf {n : Nat} (hn : n ≤ 4096) (f : Nat → Byte) :
    (Memory.ofBytes ((List.range n).map f)).wf :=
  Memory.ofBytes_wf _ (by rw [List.length_map, List.length_range]; exact hn)

theorem Memory.read_ofBytes_range {n a : Nat} (hn : n ≤ 4096) (ha : a < n) (f : Nat → Byte) :
    (Memory.ofBytes ((List.range n).map f)).read a = f a := by
  have hl : ((List.range n).map f).length = n := by rw [List.length_map, List.length_range]
  rw [Memory.read_ofBytes _ (by omega), dif_pos (by omega), List.getElem_map, List.getElem_range]

/-! ### A loaded program -/

/-- Everything LoadProgram can do (R263, R264, R73; log 24). -/
theorem State.loadProgram_cases (s : State) (image : List Byte) :
    (s.started = true ∧ s.loadProgram image = .refused .loadWhileRunning) ∨
    (s.started = false ∧ 3584 < image.length ∧ s.loadProgram image = .refused (.imageTooLarge image.length)) ∨
    (s.started = false ∧ image.length ≤ 3584 ∧
      s.loadProgram image = .next (s.setMem (s.mem.writeFrom (fun a => a) 0x200 image))) := by
  unfold State.loadProgram
  cases hs : s.started with
  | true => exact .inl ⟨rfl, rfl⟩
  | false =>
    by_cases h : image.length ≤ 3584
    · exact .inr (.inr ⟨rfl, h, if_pos h⟩)
    · exact .inr (.inl ⟨rfl, by omega, if_neg h⟩)

/-! ### A restored state -/

/-- An image of another size changes nothing (R267). -/
theorem State.restore_of_wrong_size (s : State) {image : List Byte} (h : image.length ≠ snapshotSize) :
    s.restore image = s := if_neg h

/-- What a restored state never takes from an image (R267; D31, log 26). -/
theorem State.restore_keeps (s : State) (image : List Byte) :
    (s.restore image).keys = s.keys ∧ (s.restore image).runState = s.runState ∧
    (s.restore image).waitReg = s.waitReg ∧ (s.restore image).draw = s.draw ∧ (s.restore image).quit = s.quit ∧
    (s.restore image).started = s.started ∧ (s.restore image).turns = s.turns ∧ (s.restore image).randIn = s.randIn ∧
    (s.restore image).freeCount = s.freeCount := by
  unfold State.restore
  split <;> exact ⟨rfl, rfl, rfl, rfl, rfl, rfl, rfl, rfl, rfl⟩

/-- The memory of a restored state (R267). -/
theorem State.restore_mem (s : State) {image : List Byte} (h : image.length = snapshotSize) :
    (s.restore image).mem = Memory.ofBytes ((List.range Config.memSize).map fun a => byteAt image (55 + a)) := by
  unfold State.restore
  rw [if_pos h]

/-- A restored memory has the canonical form if the old one has. -/
theorem State.restore_mem_wf (s : State) (image : List Byte) (h : s.mem.wf) : (s.restore image).mem.wf := by
  by_cases hl : image.length = snapshotSize
  · rw [s.restore_mem hl]
    exact Memory.ofBytes_range_wf (Nat.le_refl _) _
  · rw [s.restore_of_wrong_size hl]
    exact h

/-! ### A reset state -/

/-- The memory of a reset state: GLYPHS, then MEM_INIT (R45). -/
theorem powerOn_mem (p : ResetValues) : (powerOn p).mem = Memory.ofBytes (p.glyphs.toList ++ p.memInit.toList) := by
  unfold powerOn
  rfl

theorem powerOn_mem_wf (p : ResetValues) : (powerOn p).mem.wf := by
  rw [powerOn_mem]
  exact Memory.ofBytes_wf _ (by simp)

end Sys2Proof.Machine
end

