-- ==== Sys2Proof/Laws/Step.lean ====
section
/-! SUPPORT. Everything one step can do: whose turn it is, what the core does in its turn, and the frames that claims are
stated in. -/

namespace Sys2Proof.Machine

/-! ### Turns -/

theorem State.mover_cons {s : State} {turn : Turn} {ts : List Turn} (h : s.turns = turn :: ts) : s.mover = turn := by
  simp [State.mover, h]

theorem State.mover_nil {s : State} (h : s.turns = []) : s.mover = .core := by
  simp [State.mover, h]

@[simp] theorem State.inTurn_turns (s : State) : s.inTurn.turns = s.turns.tail := rfl

/-- A turn of the core is a core step with the turn taken (R9). -/
theorem step_core {s : State} (h : s.mover = .core) : step s = coreStep s.inTurn := by
  unfold step takeTurn State.inTurn
  unfold State.mover at h
  cases hs : s.turns with
  | nil => exact congrArg coreStep (by rw [List.tail_nil, ← hs, State.setTurns_self])
  | cons t ts =>
    rw [hs] at h
    simp only at h
    subst h
    rfl

/-- A turn of the environment delivers its event with the turn taken (R9, R228). -/
theorem step_environment {s : State} {e : Event} (h : s.mover = .environment e) : step s = deliver e s.inTurn := by
  unfold step takeTurn State.inTurn
  unfold State.mover at h
  cases hs : s.turns with
  | nil => rw [hs] at h; exact absurd h (by simp)
  | cons t ts =>
    rw [hs] at h
    simp only at h
    subst h
    rfl

/-- Everything a core step can do (R67, R222, R232). -/
theorem coreStep_cases (s : State) :
    (s.runState = .running ∧ s.pc.toNat ≤ 0xFFE ∧ coreStep s = exec (decodeWord s.fetchWord) s.advance) ∨
    (s.runState = .running ∧ 0xFFE < s.pc.toNat ∧ coreStep s = .next s.halt) ∨
    (s.runState ≠ .running ∧ coreStep s = .next s) := by
  unfold coreStep
  rw [fetchFails_chosen]
  cases hr : s.runState with
  | running =>
    by_cases h : 0xFFE < s.pc.toNat
    · exact .inr (.inl ⟨rfl, h, by simp [h]⟩)
    · exact .inl ⟨rfl, by omega, by simp [h]⟩
  | blocked => exact .inr (.inr ⟨by simp, rfl⟩)
  | halted => exact .inr (.inr ⟨by simp, rfl⟩)

/-- Everything a step can do: the core fetches and executes, the core's fetch fails, the core is idle, or the environment
delivers an event. -/
theorem step_cases (s : State) :
    (s.fetches ∧ step s = exec (decodeWord s.fetchWord) s.inTurn.advance) ∨
    (s.mover = .core ∧ s.runState = .running ∧ 0xFFE < s.pc.toNat ∧ step s = .next s.inTurn.halt) ∨
    (s.mover = .core ∧ s.runState ≠ .running ∧ step s = .next s.inTurn) ∨
    (∃ e, s.mover = .environment e ∧ step s = deliver e s.inTurn) := by
  cases hm : s.mover with
  | core =>
    rw [step_core hm]
    rcases coreStep_cases s.inTurn with ⟨h1, h2, h3⟩ | ⟨h1, h2, h3⟩ | ⟨h1, h2⟩
    · exact .inl ⟨⟨hm, h1, h2⟩, h3⟩
    · exact .inr (.inl ⟨rfl, h1, h2, h3⟩)
    · exact .inr (.inr (.inl ⟨rfl, h1, h2⟩))
  | environment e => exact .inr (.inr (.inr ⟨e, rfl, step_environment hm⟩))

/-! ### Frames -/

/-- Nothing changes from a state to itself. -/
theorem OnlyChanges.refl (may : Part → Prop) (s : State) : OnlyChanges may s s := by
  intro p _
  cases p <;> rfl

/-- A frame is as good as any wider one. -/
theorem OnlyChanges.mono {may may' : Part → Prop} {s t : State} (h : OnlyChanges may s t) (hm : ∀ p, may p → may' p) :
    OnlyChanges may' s t := fun p hp => h p fun hq => hp (hm p hq)

/-- Frames follow one another. -/
theorem OnlyChanges.trans {may : Part → Prop} {s t u : State} (h : OnlyChanges may s t) (h' : OnlyChanges may t u) :
    OnlyChanges may s u := by
  intro p hp
  have h1 := h p hp
  have h2 := h' p hp
  cases p <;> exact Eq.trans h2 h1

/-- A register write changes its register only. -/
theorem OnlyChanges.setV (s : State) (x : Nibble) (b : Byte) : OnlyChanges (fun p => p = .v x) s (s.setV x b) := by
  intro p hp
  cases p with
  | v r => exact (State.getV_setV s x b r).trans (if_neg fun h => hp (by rw [h]))
  | _ => rfl

/-- A result with its flag changes its register and VF only (R153). -/
theorem OnlyChanges.setWithFlag (s : State) (x : Nibble) (result flag : Byte) :
    OnlyChanges (fun p => p = .v x ∨ p = .v 15#4) s (s.setWithFlag x result flag) :=
  ((OnlyChanges.setV s x result).mono fun _ h => .inl h).trans ((OnlyChanges.setV _ _ flag).mono fun _ h => .inr h)

/-- A write of PC changes PC only. -/
theorem OnlyChanges.setPc (s : State) (w : Word) : OnlyChanges (fun p => p = .pc) s (s.setPc w) := by
  intro p hp
  cases p <;> first | rfl | exact absurd rfl hp

/-- A skip changes PC only (R120). -/
theorem OnlyChanges.skipIf (s : State) (c : Bool) : OnlyChanges (fun p => p = .pc) s (s.skipIf c) := by
  rw [State.skipIf_eq]
  exact OnlyChanges.setPc s _

/-- A write of I changes I only. -/
theorem OnlyChanges.setI (s : State) (w : Word) : OnlyChanges (fun p => p = .i) s (s.setI w) := by
  intro p hp
  cases p <;> first | rfl | exact absurd rfl hp

/-- A taken turn changes the turns only. -/
theorem OnlyChanges.inTurn (s : State) : OnlyChanges (fun p => p = .turns) s s.inTurn := by
  intro p hp
  cases p <;> first | rfl | exact absurd rfl hp

end Sys2Proof.Machine
end

