-- ==== Sys2Proof/Tests/Slice0.lean ====
section
/-! SUPPORT. The model's own tests: smoke tests of the checks, decodings of words written out from R100 and R92, one-step
vectors of 95_test_vectors.md (named by its ids), and for every statement with hypotheses a state that meets them. -/

namespace Sys2Proof.Tests

open Sys2Proof Sys2Proof.Machine

/-! ### Helpers -/

/-- What a result holds when it is a next state. -/
def after {α : Type} (o : Result) (f : State → α) : Option α :=
  match o with
  | .next t => some (f t)
  | .fault _ => none
  | .refused _ => none

/-- The reason when a result is a fault. -/
def faultOf (o : Result) : Option Fault :=
  match o with
  | .fault r => some r
  | .next _ => none
  | .refused _ => none

/-- The base state of 95_test_vectors.md with a word at its PC. -/
def base (w : Word) : State := State.reset.placeWord w

/-- The base state with registers V1 and V2. -/
def base12 (w : Word) (a b : Byte) : State := ((base w).setV 1#4 a).setV 2#4 b

/-- The base state with I and the bytes there. -/
def baseAt (w i : Word) (bs : List Byte) : State := ((base w).setI i).storeBytes bs |>.setI i

/-- V0..V15 = 10, 11, .., 1F (vectors M13 to M22). -/
def risingRegs (s : State) : State := { s with v := Vector.ofFn fun k => BitVec.ofNat 8 (0x10 + k.val) }

/-! ### The check on instructions, and the opcode map -/

theorem test_wf_refuses_cls_as_nop : (Instr.nop 0x00E0#16).wf = false := by decide
theorem test_wf_refuses_family5_as_nop : (Instr.nop 0x5127#16).wf = false := by decide
theorem test_wf_refuses_last_row_as_nop : (Instr.nop 0xFF65#16).wf = false := by decide
theorem test_wf_accepts_unassigned : (Instr.nop 0x8128#16).wf = true := by decide
theorem test_wf_accepts_every_field : (Instr.drw 15#4 15#4 0#4).wf = true := by decide
theorem test_map_has_34_rows : opcodeMap.length = 34 := by decide

/-! ### Decoding: words written out from the patterns of R100 and the fields of R91 -/

theorem test_decode_display : decodeWord 0x00E0#16 = .cls ∧ decodeWord 0xD12F#16 = .drw 1#4 2#4 15#4 := by decide
theorem test_decode_flow : decodeWord 0x00EE#16 = .ret ∧ decodeWord 0x1ABC#16 = .jp 0xABC#12 ∧
    decodeWord 0x2456#16 = .call 0x456#12 ∧ decodeWord 0xBFFF#16 = .jpV0 0xFFF#12 := by decide
theorem test_decode_skips : decodeWord 0x3A07#16 = .seImm 0xA#4 0x07#8 ∧ decodeWord 0x4105#16 = .sneImm 1#4 0x05#8 ∧
    decodeWord 0x5127#16 = .seReg 1#4 2#4 7#4 ∧ decodeWord 0x912F#16 = .sneReg 1#4 2#4 15#4 := by decide
theorem test_decode_immediates : decodeWord 0x6FAB#16 = .ldImm 0xF#4 0xAB#8 ∧
    decodeWord 0x71FF#16 = .addImm 1#4 0xFF#8 ∧ decodeWord 0xC10F#16 = .rnd 1#4 0x0F#8 := by decide
theorem test_decode_alu_bitwise : decodeWord 0x8120#16 = .ldReg 1#4 2#4 ∧ decodeWord 0x8121#16 = .orReg 1#4 2#4 ∧
    decodeWord 0x8122#16 = .andReg 1#4 2#4 ∧ decodeWord 0x8123#16 = .xorReg 1#4 2#4 := by decide
theorem test_decode_alu_flagged : decodeWord 0x8F14#16 = .addReg 15#4 1#4 ∧ decodeWord 0x8125#16 = .subReg 1#4 2#4 ∧
    decodeWord 0x8126#16 = .shr 1#4 2#4 ∧ decodeWord 0x81F7#16 = .subnReg 1#4 15#4 ∧
    decodeWord 0x812E#16 = .shl 1#4 2#4 := by decide
theorem test_decode_index : decodeWord 0xA202#16 = .ldI 0x202#12 ∧ decodeWord 0xF11E#16 = .addIVx 1#4 ∧
    decodeWord 0xF129#16 = .ldFVx 1#4 := by decide
theorem test_decode_memory : decodeWord 0xF033#16 = .ldBVx 0#4 ∧ decodeWord 0xF355#16 = .ldMemVx 3#4 ∧
    decodeWord 0xFF65#16 = .ldVxMem 15#4 := by decide
theorem test_decode_keys : decodeWord 0xE19E#16 = .skp 1#4 ∧ decodeWord 0xE1A1#16 = .sknp 1#4 ∧
    decodeWord 0xFA0A#16 = .ldVxK 10#4 := by decide
theorem test_decode_timers : decodeWord 0xF407#16 = .ldVxDt 4#4 ∧ decodeWord 0xF015#16 = .ldDtVx 0#4 ∧
    decodeWord 0xF118#16 = .ldStVx 1#4 := by decide

theorem test_decode_unassigned_0_E2 : decodeWord 0x0000#16 = .nop 0x0000#16 ∧ decodeWord 0x00E1#16 = .nop 0x00E1#16 ∧
    decodeWord 0x00FF#16 = .nop 0x00FF#16 ∧ decodeWord 0x0FFF#16 = .nop 0x0FFF#16 := by decide
theorem test_decode_unassigned_8_E_E2 : decodeWord 0x8129#16 = .nop 0x8129#16 ∧
    decodeWord 0x812F#16 = .nop 0x812F#16 ∧ decodeWord 0xE19F#16 = .nop 0xE19F#16 ∧
    decodeWord 0xE1A0#16 = .nop 0xE1A0#16 := by decide
theorem test_decode_unassigned_F_E2 : decodeWord 0xF100#16 = .nop 0xF100#16 ∧ decodeWord 0xF108#16 = .nop 0xF108#16 ∧
    decodeWord 0xF185#16 = .nop 0xF185#16 ∧ decodeWord 0xF1FF#16 = .nop 0xF1FF#16 := by decide

/-- The pairing of D15: a nonzero second digit makes no CLS and no RET. -/
theorem test_decode_family0_whole_word : decodeWord 0x01E0#16 = .nop 0x01E0#16 ∧
    decodeWord 0x0AEE#16 = .nop 0x0AEE#16 := by decide

theorem test_decode_truncated : decode [0x6A#8] = .error (.truncated 1) ∧ decode [] = .error (.truncated 0) := by decide
theorem test_decode_leaves_the_rest : decode [0x12#8, 0x00#8, 0x34#8] = .ok (.jp 0x200#12, [0x34#8]) := by decide
theorem test_encode : encode (.drw 0#4 1#4 5#4) = 0xD015#16 ∧ encode (.ldMemVx 3#4) = 0xF355#16 ∧
    encode (.call 0x456#12) = 0x2456#16 ∧ encode (.addReg 1#4 2#4) = 0x8124#16 := by decide
theorem test_decode_table_word : decodeTableWord 16 0xD015 = some (.drw 0#4 1#4 5#4) ∧
    decodeTableWord 8 0xD015 = some (.nop 0x0015#16) := by decide
theorem test_step_from_fetch_word :
    after (step (State.reset.withFetchWord 16 0x6A42)) (fun t => (t.getV 10#4, t.pc)) = some (0x42#8, 0x202#16) := by
  decide

/-! ### Fetch (vectors E1 to E9) -/

theorem test_fetch_big_endian_E1 :
    after (step (((State.reset).setMem [(0x200, 0x6A#8), (0x201, 0x42#8)]))) (fun t => t.getV 10#4) = some 0x42#8 := by
  decide
theorem test_fetch_last_word_E5 :
    after (step ((State.reset.setPc 0xFFE#16).placeWord 0x6A42#16)) (fun t => (t.getV 10#4, t.pc, t.runState)) =
      some (0x42#8, 0x1000#16, .running) := by decide
theorem test_fetch_fails_E6 : after (step ((State.reset.setPc 0xFFF#16).setDraw true))
    (fun t => (t.runState, t.pc, t.draw)) = some (.halted, 0xFFF#16, true) := by decide
theorem test_fetch_odd_E8 :
    after (step ((State.reset.setPc 0x201#16).placeWord 0x6A42#16)) (fun t => (t.getV 10#4, t.pc)) =
      some (0x42#8, 0x203#16) := by decide
theorem test_halted_does_nothing_E9 : after (step ((base 0x6A42#16).setRunState .halted)) (fun t => (t.getV 10#4, t.pc)) =
    some (0x00#8, 0x200#16) := by decide

/-! ### Control transfer (vectors F1 to F32) -/

theorem test_jp_F1 : after (step (base 0x1ABC#16)) (·.pc) = some 0xABC#16 := by decide
theorem test_call_F5 : after (step (base 0x2456#16)) (fun t => (t.pc, t.sp, t.getStack 0#4)) =
    some (0x456#16, 0x00#8, 0x202#16) := by decide
theorem test_call_17th_F8 : faultOf (step ((base 0x2456#16).setSp 0x0F#8)) = some (.undefinedStackIndex 0x10#8) := by
  decide
theorem test_call_wrap16_F8 : stackSlot .wrap16 0x10#8 = some 0#4 := by decide
theorem test_ret_F11 : after (step (((base 0x00EE#16).setSp 0x0F#8).setStack 15#4 0xABC#16))
    (fun t => (t.pc, t.sp, t.getStack 15#4)) = some (0xABC#16, 0x0E#8, 0xABC#16) := by decide
theorem test_ret_empty_F13 : faultOf (step (base 0x00EE#16)) = some (.undefinedStackIndex 0xFF#8) := by decide
theorem test_se_imm_F15_F16 : after (step (base12 0x3105#16 5#8 0#8)) (·.pc) = some 0x204#16 ∧
    after (step (base12 0x3105#16 6#8 0#8)) (·.pc) = some 0x202#16 := by decide
theorem test_sne_imm_F17_F18 : after (step (base12 0x4105#16 5#8 0#8)) (·.pc) = some 0x202#16 ∧
    after (step (base12 0x4105#16 6#8 0#8)) (·.pc) = some 0x204#16 := by decide
theorem test_se_reg_E3_F20 : after (step (base12 0x5127#16 7#8 7#8)) (·.pc) = some 0x204#16 ∧
    after (step (base12 0x5120#16 7#8 8#8)) (·.pc) = some 0x202#16 := by decide
theorem test_sne_reg_F22_E4 : after (step (base12 0x9120#16 7#8 7#8)) (·.pc) = some 0x202#16 ∧
    after (step (base12 0x912F#16 7#8 8#8)) (·.pc) = some 0x204#16 := by decide
theorem test_jpV0_F31 : after (step ((base 0xBFFF#16).setV 0#4 0xFF#8)) (·.pc) = some 0x10FE#16 := by decide

/-! ### Registers and ALU (vectors A1 to A10) -/

theorem test_ld_imm_A7 : after (step (base 0x6FAB#16)) (·.getV 15#4) = some 0xAB#8 := by decide
theorem test_add_imm_A6 : after (step ((base12 0x71FF#16 0x05#8 0#8).setV 15#4 0x77#8))
    (fun t => (t.getV 1#4, t.getV 15#4)) = some (0x04#8, 0x77#8) := by decide
theorem test_copy_and_bitwise_A5 : after (step (base12 0x8120#16 0xF0#8 0x3C#8)) (·.getV 1#4) = some 0x3C#8 ∧
    after (step (base12 0x8121#16 0xF0#8 0x3C#8)) (·.getV 1#4) = some 0xFC#8 ∧
    after (step (base12 0x8122#16 0xF0#8 0x3C#8)) (·.getV 1#4) = some 0x30#8 ∧
    after (step (base12 0x8123#16 0xF0#8 0x3C#8)) (·.getV 1#4) = some 0xCC#8 := by decide
theorem test_or_keeps_vf_A5 : after (step ((base12 0x8121#16 0xF0#8 0x3C#8).setV 15#4 0x77#8)) (·.getV 15#4) =
    some 0x77#8 := by decide
theorem test_add_A1 : after (step (base12 0x8124#16 0xC8#8 0x64#8)) (fun t => (t.getV 1#4, t.getV 15#4)) =
    some (0x2C#8, 0x01#8) := by decide
theorem test_add_vf_A8 : after (step ((base12 0x8F14#16 0x01#8 0#8).setV 15#4 0xFF#8)) (·.getV 15#4) = some 0x01#8 := by
  decide
theorem test_sub_equal_A2 : after (step (base12 0x8125#16 0x80#8 0x80#8)) (fun t => (t.getV 1#4, t.getV 15#4)) =
    some (0x00#8, 0x00#8) := by decide
theorem test_sub_borrow_A2 : after (step (base12 0x8125#16 0x05#8 0x07#8)) (fun t => (t.getV 1#4, t.getV 15#4)) =
    some (0xFE#8, 0x00#8) := by decide
theorem test_subn_A3 : after (step (base12 0x8127#16 0x05#8 0x07#8)) (fun t => (t.getV 1#4, t.getV 15#4)) =
    some (0x02#8, 0x01#8) := by decide
theorem test_subn_vf_A8 : after (step ((base12 0x81F7#16 0x03#8 0#8).setV 15#4 0x05#8))
    (fun t => (t.getV 1#4, t.getV 15#4)) = some (0x02#8, 0x01#8) := by decide
theorem test_shr_A4 : after (step (base12 0x8126#16 0xC1#8 0x55#8)) (fun t => (t.getV 1#4, t.getV 2#4, t.getV 15#4)) =
    some (0x60#8, 0x55#8, 0x01#8) := by decide
theorem test_shl_A4 : after (step (base12 0x812E#16 0xC1#8 0x55#8)) (fun t => (t.getV 1#4, t.getV 2#4, t.getV 15#4)) =
    some (0x82#8, 0x55#8, 0x01#8) := by decide
theorem test_shl_vf_A8 : after (step ((base 0x8FFE#16).setV 15#4 0x40#8)) (·.getV 15#4) = some 0x00#8 := by decide
theorem test_rnd_A10 : after (step ((base 0xC1F0#16).setRandIn [0xA5#8, 0x11#8])) (fun t => (t.getV 1#4, t.randIn)) =
    some (0xA0#8, [0x11#8]) := by decide
theorem test_rnd_zero_mask_A10 : ∀ b : Byte, b &&& 0x00#8 = 0x00#8 := by decide

/-! ### Index register and memory (vectors M1 to M26) -/

theorem test_ldI_M2 : after (step ((base 0xAFFF#16).setI 0x1234#16)) (·.i) = some 0xFFF#16 := by decide
theorem test_addI_M4_M6 : after (step ((base12 0xF11E#16 1#8 0#8).setI 0xFFF#16)) (fun t => (t.i, t.getV 15#4)) =
    some (0x1000#16, 0#8) ∧ after (step ((base12 0xF11E#16 1#8 0#8).setI 0xFFFF#16)) (·.i) = some 0#16 := by decide
theorem test_ldF_M8_M9 : after (step (base12 0xF129#16 0x0F#8 0#8)) (·.i) = some 0x4B#16 ∧
    after (step (base12 0xF129#16 0xFF#8 0#8)) (·.i) = some 0x4FB#16 := by decide
theorem test_bcd_M11 : after (step ((base12 0xF133#16 0x7B#8 0#8).setI 0xFFD#16))
    (fun t => (t.mem.read 0xFFD, t.mem.read 0xFFE, t.mem.read 0xFFF, t.i)) = some (1#8, 2#8, 3#8, 0xFFD#16) := by decide
theorem test_bcd_past_memory_M12 : faultOf (step ((base12 0xF133#16 0x7B#8 0#8).setI 0xFFE#16)) =
    some (.undefinedDataAddress 0x1000) := by decide
theorem test_store_M14 : after (step ((risingRegs (base 0xF355#16)).setI 0x300#16))
    (fun t => (t.mem.read 0x300, t.mem.read 0x303, t.mem.read 0x304, t.i)) = some (0x10#8, 0x13#8, 0#8, 0x300#16) := by
  decide
theorem test_store_past_memory_M17 : faultOf (step ((risingRegs (base 0xFF55#16)).setI 0xFF1#16)) =
    some (.undefinedDataAddress 0x1000) := by decide
theorem test_load_M24 : after (step (baseAt 0xF165#16 5#16 [])) (fun t => (t.getV 0#4, t.getV 1#4, t.i)) =
    some (0x20#8, 0x60#8, 5#16) := by decide
theorem test_load_past_memory_M23 : faultOf (step ((base 0xF165#16).setI 0xFFF#16)) =
    some (.undefinedDataAddress 0x1000) := by decide
theorem test_store_over_next_word_M26 :
    after (step ((((base 0xF155#16).setV 0#4 0x6A#8).setV 1#4 0x42#8).setI 0x202#16)) (fun t => t.fetchWord) =
      some 0x6A42#16 := by decide
theorem test_wrap12_M12 : placeData .wrap12 0x1000 = 0 ∧ (base 0x0000#16).spanFault .wrap12 3 = none := by decide
theorem test_memory_entry_removed : Memory.write [(0x300, 7#8)] 0x300 0#8 = [] ∧ Memory.write [] 1 0x90#8 = [] ∧
    Memory.write [(5, 1#8)] 3 0x90#8 = [(5, 1#8)] := by decide

/-! ### Display (vectors G1 to G22) -/

theorem test_cls_G1 : after (step ((base 0x00E0#16).setFb (Framebuffer.cleared.flip 63 31)))
    (fun t => (t.fb.pixel 63 31, t.draw)) = some (false, false) := by decide
theorem test_drw_last_cell_G4 : after (step (((baseAt 0xD011#16 0x300#16 [0x80#8]).setV 0#4 63#8).setV 1#4 31#8))
    (fun t => (t.fb.pixel 63 31, t.getV 15#4, t.draw)) = some (true, 0#8, true) := by decide
theorem test_drw_clips_and_collides_G15 :
    after (step (((baseAt 0xD011#16 0x300#16 [0x0F#8]).setV 0#4 58#8).setFb (Framebuffer.cleared.flip 63 0)))
      (fun t => (t.fb.pixel 62 0, t.fb.pixel 63 0, t.fb.pixel 0 0, t.getV 15#4)) = some (true, false, false, 1#8) := by
  decide
theorem test_drw_no_rows_G11 : after (step (((base 0xD010#16).setI 0xFFFF#16).setV 15#4 1#8))
    (fun t => (t.getV 15#4, t.draw)) = some (0#8, true) := by decide

/-! ### Keys, timers and events (vectors K1 to K24, S1 to S5) -/

theorem test_skp_K1_K5 : after (step ((base12 0xE19E#16 5#8 0#8).setKey 5#4 true)) (·.pc) = some 0x204#16 ∧
    after (step (((base12 0xE19E#16 5#8 0#8).setKey 4#4 true).setKey 6#4 true)) (·.pc) = some 0x202#16 := by decide
theorem test_sknp_K3_K4 : after (step ((base12 0xE1A1#16 5#8 0#8).setKey 5#4 true)) (·.pc) = some 0x202#16 ∧
    after (step (base12 0xE1A1#16 5#8 0#8)) (·.pc) = some 0x204#16 := by decide
theorem test_ld_dt_K8 : after (step ((base 0xF107#16).setDt 0x2A#8)) (fun t => (t.getV 1#4, t.dt)) =
    some (0x2A#8, 0x2A#8) := by decide
theorem test_set_dt_K9 : after (step ((base12 0xF115#16 0xFF#8 0#8).setSt 9#8)) (fun t => (t.dt, t.st)) =
    some (0xFF#8, 9#8) := by decide
theorem test_set_st_K10 : after (step ((base12 0xF118#16 1#8 0#8).setDt 7#8)) (fun t => (t.st, t.dt, t.toneOn)) =
    some (1#8, 7#8, true) := by decide
theorem test_wait_K14 : after (step (((base 0xFA0A#16).setV 10#4 0x77#8).setKey 3#4 true))
    (fun t => (t.runState, t.waitReg, t.pc, t.getV 10#4)) = some (.blocked, 10#4, 0x202#16, 0x77#8) := by decide
theorem test_key_down_K18 : after (step (((base 0#16).setRunState .blocked |>.setWaitReg 10#4).setTurns
    [.environment (.keyDown 3#4)])) (fun t => (t.getKey 3#4, t.getV 10#4, t.runState)) = some (true, 3#8, .running) := by
  decide
theorem test_key_up_K17 : after (step (((base 0#16).setRunState .blocked |>.setKey 3#4 true).setTurns
    [.environment (.keyUp 3#4)])) (fun t => (t.getKey 3#4, t.runState)) = some (false, .blocked) := by decide
theorem test_tick_K12 : after (step (((base 0#16).setDt 2#8).setTurns [.environment .timerTick]))
    (fun t => (t.dt, t.st)) = some (1#8, 0#8) := by decide
theorem test_tick_lost_K15_K23 : after (step ((((base 0#16).setDt 9#8).setRunState .blocked).setTurns
    [.environment .timerTick])) (·.dt) = some 9#8 := by decide
theorem test_quit_K21 : after (step (((base 0#16).setRunState .blocked).setTurns [.environment .quit]))
    (fun t => (t.runState, t.quit)) = some (.halted, true) := by decide
theorem test_reset_S1 : (State.reset.pc, State.reset.sp, State.reset.i, State.reset.runState) =
    (0x200#16, 0xFF#8, 0#16, .running) := by decide
theorem test_load_program_S2 : after (step (State.reset.setTurns [.environment (.loadProgram [0x12#8, 0x34#8, 0x56#8])]))
    (fun t => (t.mem.read 0x200, t.mem.read 0x202, t.mem.read 0x203, t.pc)) =
      some (0x12#8, 0x56#8, 0#8, 0x200#16) := by decide
/-- Once the core has executed, a load is refused (R263, R73). -/
theorem test_load_program_while_running : after (step (base 0x6A42#16)) (·.started) = some true ∧
    after (step ((State.reset.setStarted true).setTurns [.environment (.loadProgram [0x12#8])])) (·.mem) = none := by
  decide
theorem test_snapshot_words_T2 : bytesOfWord 0xABC#16 = [0x0A#8, 0xBC#8] ∧ wordAt [0x01#8, 0x0A#8, 0xBC#8] 1 = 0xABC#16 ∧
    colorAt [0x12#8, 0x34#8, 0x56#8, 0x78#8] 0 = 0x12345678#32 := by decide

/-! ### Witnesses: states and operands that meet the hypotheses of each statement, at the ends of their ranges -/

theorem witness_StepRunsTheDecodedInstruction :
    (base 0x6A42#16).fetches ∧ ((State.reset.setPc 0xFFE#16).placeWord 0x6A42#16).fetches ∧
    ((State.reset.setPc 0x201#16).placeWord 0x6A42#16).fetches ∧
    decode [(base 0x6A42#16).mem.read 0x200, (base 0x6A42#16).mem.read 0x201] = .ok (.ldImm 10#4 0x42#8, []) :=
  ⟨⟨rfl, rfl, by decide⟩, ⟨rfl, rfl, by decide⟩, ⟨rfl, rfl, by decide⟩, by decide⟩

theorem witness_FailedFetchHaltsAndChangesNothingElse :
    (State.reset.setPc 0xFFF#16).mover = .core ∧ (State.reset.setPc 0xFFF#16).runState = .running ∧
    0xFFE < (State.reset.setPc 0xFFF#16).pc.toNat ∧ (State.reset.setPc 0xFFFF#16).mover = .core ∧
    (State.reset.setPc 0xFFFF#16).runState = .running ∧ 0xFFE < (State.reset.setPc 0xFFFF#16).pc.toNat :=
  ⟨rfl, rfl, by decide, rfl, rfl, by decide⟩

theorem witness_HaltedIsTerminal_core : ∃ t, (State.reset.halt).final ∧ step State.reset.halt = .next t ∧
    (∀ p, State.reset.halt.mover ≠ .environment (.reset p)) ∧ State.reset.halt.mover = .core :=
  ⟨_, rfl, rfl, fun _ h => (by cases h), rfl⟩

theorem witness_HaltedIsTerminal_environment :
    ∃ t, (State.reset.halt.setTurns [.environment (.keyDown 15#4)]).final ∧
      step (State.reset.halt.setTurns [.environment (.keyDown 15#4)]) = .next t ∧
      (∀ p, (State.reset.halt.setTurns [.environment (.keyDown 15#4)]).mover ≠ .environment (.reset p)) :=
  ⟨_, rfl, rfl, fun _ h => (by cases h)⟩

/-- One state for each row of the table of transitions: Fx0A, a failed fetch, Quit, KeyDown, reset. -/
theorem witness_RunStateChangesOnlyByTheTable :
    (∃ t, step (base 0xF10A#16) = .next t ∧ t.runState ≠ .running) ∧
    (∃ t, step (State.reset.setPc 0xFFF#16) = .next t ∧ t.runState ≠ .running) ∧
    (∃ t, step ((base 0#16).setTurns [.environment .quit]) = .next t ∧ t.runState ≠ .running) ∧
    (∃ t, step (((base 0#16).setRunState .blocked).setTurns [.environment (.keyDown 15#4)]) = .next t ∧
      t.runState ≠ .blocked) ∧
    (∃ t, step (State.reset.halt.setTurns [.environment (.reset .chosen)]) = .next t ∧ t.runState ≠ .halted) :=
  ⟨⟨_, rfl, by decide⟩, ⟨_, rfl, by decide⟩, ⟨_, rfl, by decide⟩, ⟨_, rfl, by decide⟩, ⟨_, rfl, by decide⟩⟩

theorem witness_CoreIsIdleUnlessRunning : State.reset.halt.mover = .core ∧ State.reset.halt.runState ≠ .running ∧
    (State.reset.setRunState .blocked).mover = .core ∧ (State.reset.setRunState .blocked).runState ≠ .running := by decide

theorem witness_DecodeOfEncodeIsTheInstruction : (Instr.nop 0xFFFF#16).wf = true ∧ (Instr.nop 0x0000#16).wf = true ∧
    (Instr.ldVxMem 15#4).wf = true := by decide

theorem witness_UnassignedWordsChangeNothing :
    (∀ r ∈ opcodeMap, 0x8128#16 &&& r.mask ≠ r.pattern) ∧ (∀ r ∈ opcodeMap, 0x0000#16 &&& r.mask ≠ r.pattern) ∧
    (base 0x8128#16).fetches ∧
    (base 0x8128#16).mem.read (base 0x8128#16).pc.toNat ++ (base 0x8128#16).mem.read ((base 0x8128#16).pc.toNat + 1) =
      0x8128#16 :=
  ⟨by decide, by decide, ⟨rfl, rfl, by decide⟩, by decide⟩

/-- SP = 0x0E and 0xFF complete, SP = 0x0F and 0xFE do not. -/
theorem witness_CallPushesTheReturnAddress : ((base 0#16).sp.toNat + 1) % 256 ≤ 15 ∧
    (((base 0#16).setSp 0x0E#8).sp.toNat + 1) % 256 ≤ 15 ∧ 15 < (((base 0#16).setSp 0x0F#8).sp.toNat + 1) % 256 ∧
    15 < (((base 0#16).setSp 0xFE#8).sp.toNat + 1) % 256 := by decide

theorem witness_ReturnPopsTheReturnAddress : ((base 0#16).setSp 0x00#8).sp.toNat ≤ 15 ∧
    ((base 0#16).setSp 0x0F#8).sp.toNat ≤ 15 ∧ 15 < ((base 0#16).setSp 0x10#8).sp.toNat ∧ 15 < (base 0#16).sp.toNat := by
  decide

theorem witness_ReturnUndoesCall : (State.reset.sp.toNat + 1) % 256 ≤ 15 := by decide

/-- The clause on the result (AddSetsCarry, SubtractionsSetNoBorrow, ShiftsSetTheBitMovedOut) applies up to x = 14. -/
theorem witness_flagged_result : (0#4 : Nibble) ≠ 15#4 ∧ (14#4 : Nibble) ≠ 15#4 := by decide

theorem witness_RandomByteIsMasked : (State.reset.setRandIn [0xA5#8]).randIn = 0xA5#8 :: [] ∧ State.reset.randIn = [] := by
  decide

theorem witness_RegisterWriters :
    (∃ t, exec (.ldImm 3#4 7#8) State.reset = .next t ∧ t.getV 3#4 ≠ State.reset.getV 3#4) ∧
    (∃ t, exec (.shr 1#4 0#4) (State.reset.setV 1#4 1#8) = .next t ∧
      t.getV 15#4 ≠ (State.reset.setV 1#4 1#8).getV 15#4) :=
  ⟨⟨_, rfl, by decide⟩, ⟨_, rfl, by decide⟩⟩

theorem witness_StoreBcd : State.reset.mem.wf ∧ (State.reset.setI 0xFFD#16).i.toNat + 2 ≤ 0xFFF := by decide

theorem witness_StoreRegisters_LoadRegisters : State.reset.mem.wf ∧
    (State.reset.setI 0xFF0#16).i.toNat + (15#4 : Nibble).toNat ≤ 0xFFF ∧
    (State.reset.setI 0xFFF#16).i.toNat + (0#4 : Nibble).toNat ≤ 0xFFF ∧ (15#4 : Nibble).toNat ≤ (15#4 : Nibble).toNat := by
  decide

theorem witness_LoadUndoesStore : ∃ t, State.reset.mem.wf ∧
    exec (.ldMemVx 3#4) (State.reset.setI 0x300#16) = .next t ∧ (3#4 : Nibble).toNat ≤ (3#4 : Nibble).toNat ∧
    (3#4 : Nibble).toNat < (4#4 : Nibble).toNat :=
  ⟨_, by decide, rfl, by decide, by decide⟩

theorem witness_AccessPastMemoryIsUndefined : 0xFFF < (State.reset.setI 0xFFE#16).i.toNat + 2 ∧
    0xFFF < (State.reset.setI 0xFF1#16).i.toNat + (15#4 : Nibble).toNat ∧ (1#4 : Nibble) ≠ 0#4 ∧
    0xFFF < (State.reset.setI 0x1000#16).i.toNat + (1#4 : Nibble).toNat - 1 := by decide

/-- Vector M26. -/
theorem witness_StoreIsSeenByTheNextFetch :
    let s := (((base 0xF155#16).setV 0#4 0x6A#8).setV 1#4 0x42#8).setI 0x202#16
    ∃ t, s.mem.wf ∧ s.fetches ∧ s.turns = [] ∧
      decodeWord (s.mem.read s.pc.toNat ++ s.mem.read (s.pc.toNat + 1)) = .ldMemVx 1#4 ∧ step s = .next t ∧
      (0#4 : Nibble).toNat + 1 ≤ (1#4 : Nibble).toNat ∧ s.pc.toNat + 2 = s.dataAddr (0#4 : Nibble).toNat ∧ t.fetches :=
  ⟨_, by decide, ⟨rfl, rfl, by decide⟩, rfl, by decide, rfl, by decide, by decide, ⟨rfl, rfl, by decide⟩⟩

theorem witness_DrawSpriteExclusiveOr : (0#4 : Nibble) = 0#4 ∧
    (State.reset.setI 0xFF1#16).i.toNat + (15#4 : Nibble).toNat - 1 ≤ 0xFFF ∧
    (State.reset.setI 0xFFF#16).i.toNat + (1#4 : Nibble).toNat - 1 ≤ 0xFFF := by decide

theorem witness_DrawingTwiceRestoresTheScreen : ∃ t u, (0#4 : Nibble) ≠ 15#4 ∧ (14#4 : Nibble) ≠ 15#4 ∧
    exec (.drw 0#4 14#4 5#4) State.reset = .next t ∧ exec (.drw 0#4 14#4 5#4) t = .next u ∧
    ∀ px py, State.reset.fb.pixel px py = false :=
  ⟨_, _, by decide, by decide, rfl, rfl, Framebuffer.pixel_cleared⟩

theorem witness_KeySkips : (State.reset.setV 1#4 15#8).getV 1#4 = (15#4 : Nibble).setWidth 8 ∧
    15 < ((State.reset.setV 1#4 16#8).getV 1#4).toNat := by decide

theorem witness_KeyEvents :
    (State.reset.setTurns [.environment (.keyDown 15#4)]).turns = .environment (.keyDown 15#4) :: [] ∧
    (State.reset.setTurns [.environment (.keyDown 15#4)]).runState ≠ .blocked ∧
    ((State.reset.setRunState .blocked).setTurns [.environment (.keyDown 0#4)]).turns =
      .environment (.keyDown 0#4) :: [] ∧
    ((State.reset.setRunState .blocked).setTurns [.environment (.keyDown 0#4)]).runState = .blocked ∧
    (State.reset.setTurns [.environment (.keyUp 15#4), .core]).turns = .environment (.keyUp 15#4) :: [.core] ∧
    (State.reset.setTurns [.environment (.setKeyState 0#4 true)]).turns =
      .environment (.setKeyState 0#4 true) :: [] := by decide

theorem witness_TimerTickCountsDown : ((State.reset.setDt 0xFF#8).setTurns [.environment .timerTick]).turns =
    .environment .timerTick :: [] ∧ ((State.reset.setDt 0xFF#8).setTurns [.environment .timerTick]).runState = .running := by
  decide

theorem witness_TicksAreLostUnlessRunning : ∀ r ∈ [RunState.blocked, .halted],
    ((State.reset.setRunState r).setTurns [.environment .timerTick]).turns = .environment .timerTick :: [] ∧
    ((State.reset.setRunState r).setTurns [.environment .timerTick]).runState ≠ .running := by decide

theorem witness_QuitHalts : ∀ r ∈ [RunState.running, .blocked, .halted],
    ((State.reset.setRunState r).setTurns [.environment .quit]).turns = .environment .quit :: [] := by decide

/-- One next state in which each special register has changed. -/
theorem witness_SpecialRegisterWriters :
    (∃ t, exec (.call 0x456#12) (base 0#16) = .next t ∧ t.pc ≠ (base 0#16).pc ∧ t.sp ≠ (base 0#16).sp ∧
      t.stack ≠ (base 0#16).stack) ∧
    (∃ t, exec (.ldI 0x456#12) (base 0#16) = .next t ∧ t.i ≠ (base 0#16).i) ∧
    (∃ t, exec (.ldDtVx 1#4) (base12 0#16 9#8 0#8) = .next t ∧ t.dt ≠ (base12 0#16 9#8 0#8).dt) ∧
    (∃ t, exec (.ldStVx 1#4) (base12 0#16 9#8 0#8) = .next t ∧ t.st ≠ (base12 0#16 9#8 0#8).st) :=
  ⟨⟨_, rfl, by decide, by decide, by decide⟩, ⟨_, rfl, by decide⟩, ⟨_, rfl, by decide⟩, ⟨_, rfl, by decide⟩⟩

theorem witness_MemoryAndScreenWriters :
    (∃ t, exec (.ldBVx 1#4) ((base12 0#16 0x7B#8 0#8).setI 0xFFD#16) = .next t ∧
      t.mem.read 0xFFF ≠ ((base12 0#16 0x7B#8 0#8).setI 0xFFD#16).mem.read 0xFFF) ∧
    (∃ t, exec (.ldMemVx 1#4) ((base12 0#16 0x7B#8 0#8).setI 0xFFE#16) = .next t ∧
      t.mem.read 0xFFF ≠ ((base12 0#16 0x7B#8 0#8).setI 0xFFE#16).mem.read 0xFFF) ∧
    (∃ t, exec .cls ((base 0#16).setFb (Framebuffer.cleared.flip 63 31)) = .next t ∧
      t.fb ≠ ((base 0#16).setFb (Framebuffer.cleared.flip 63 31)).fb) :=
  ⟨⟨_, rfl, by decide⟩, ⟨_, rfl, by decide⟩, ⟨_, rfl, by decide⟩⟩

theorem witness_RunLoopStateWriters :
    (∃ t, exec (.ldVxK 1#4) (base 0#16) = .next t ∧ (t.runState ≠ (base 0#16).runState ∨ t.waitReg ≠ (base 0#16).waitReg)) ∧
    (∃ t, (base 0xD011#16).fetches ∧ step (base 0xD011#16) = .next t ∧ t.draw = true) :=
  ⟨⟨_, rfl, by decide⟩, ⟨_, ⟨rfl, rfl, by decide⟩, rfl, rfl⟩⟩

theorem witness_SequentialStepsAdvanceByTwo : ∃ t, ((State.reset.setPc 0xFFE#16).placeWord 0x3000#16).fetches ∧
    step ((State.reset.setPc 0xFFE#16).placeWord 0x3000#16) = .next t ∧
    decodeWord (((State.reset.setPc 0xFFE#16).placeWord 0x3000#16).mem.read 0xFFE ++
      ((State.reset.setPc 0xFFE#16).placeWord 0x3000#16).mem.read 0xFFF) = .seImm 0#4 0#8 :=
  ⟨_, ⟨rfl, rfl, by decide⟩, rfl, by decide⟩

theorem witness_StepKeepsCanonicalMemoryAndQuit :
    (∃ t, (base 0xF155#16).Inv ∧ step (base 0xF155#16) = .next t) ∧
    (∃ t, (State.reset.quitSignal).Inv ∧ State.reset.quitSignal.quit = true ∧ step State.reset.quitSignal = .next t) :=
  ⟨⟨_, ⟨by decide, by decide⟩, rfl⟩, ⟨_, ⟨by decide, by decide⟩, rfl, rfl⟩⟩

/-- At the ends of the bounds: PC = 0x10FE, SP = 15 with a full stack of the largest return address. -/
theorem witness_StepKeepsLaunchedBounds :
    (∃ t, ((State.reset.setPc 0x10FE#16).setSp 15#8).Launched ∧
      step ((State.reset.setPc 0x10FE#16).setSp 15#8) = .next t) ∧
    (∃ t, (((base 0x00EE#16).setSp 0#8).setStack 0#4 0x1000#16).Launched ∧
      step (((base 0x00EE#16).setSp 0#8).setStack 0#4 0x1000#16) = .next t) :=
  ⟨⟨_, ⟨by simp [State.reset], by decide, by decide, by decide⟩, rfl⟩,
    ⟨_, ⟨by simp [base, State.placeWord], by decide, by decide, by decide⟩, rfl⟩⟩

/-- The largest image that is loaded and the smallest that is rejected (vectors S3, S4), before a program runs and after. -/
theorem witness_LoadProgramPlacesTheImage : State.reset.mem.wf ∧ ∀ b, ∀ n ∈ [3584, 3585],
    ((State.reset.setStarted b).setTurns [.environment (.loadProgram (List.replicate n 0#8))]).turns =
      .environment (.loadProgram (List.replicate n 0#8)) :: [] ∧
    ((State.reset.setStarted b).setTurns [.environment (.loadProgram (List.replicate n 0#8))]).started = b ∧
    ((List.replicate n 0#8).length ≤ 3584 ↔ n = 3584) ∧ (3584 < (List.replicate n 0#8).length ↔ n = 3585) := by
  refine ⟨by decide, fun b n hn => ⟨rfl, rfl, ?_⟩⟩
  rw [List.length_replicate]
  rcases List.mem_pair.mp hn with rfl | rfl <;> omega

theorem witness_RestoreOverwritesTheSnapshotState : ∀ n ∈ [12342, 12343],
    (State.reset.setTurns [.environment (.restoreState (List.replicate n 0#8))]).turns =
      .environment (.restoreState (List.replicate n 0#8)) :: [] ∧
    ((List.replicate n 0#8).length = 12343 ↔ n = 12343) := by
  intro n hn
  exact ⟨rfl, by rw [List.length_replicate]⟩

theorem witness_OnlyRestoreWritesMemoryWhileRunning :
    (∃ t, (base 0x6A42#16).fetches ∧ step (base 0x6A42#16) = .next t) ∧
    (∃ t, step ((State.reset.setStarted true).setTurns [.environment .timerTick]) = .next t ∧
      ((State.reset.setStarted true).setTurns [.environment .timerTick]).started = true ∧
      (∀ p, ((State.reset.setStarted true).setTurns [.environment .timerTick]).mover ≠ .environment (.reset p)) ∧
      ((State.reset.setStarted true).setTurns [.environment .timerTick]).mover = .environment .timerTick ∧
      ∀ image, Event.timerTick ≠ .restoreState image) :=
  ⟨⟨_, ⟨rfl, rfl, by decide⟩, rfl⟩, ⟨_, rfl, rfl, fun _ h => (by cases h), rfl, fun _ h => (by cases h)⟩⟩

theorem witness_SnapshotRoundTrip : (base 0x6A42#16).mem.wf := by decide

end Sys2Proof.Tests
end

section
/-! PROOFS of the family 10_state: the frame of every update and of every instruction, and from it which instruction can
change which part of the state; the two invariants; what reset leaves. -/

namespace Sys2Proof.Machine

/-! ### Frames of the updates -/

/-- A part that differs is one that the frame allows to change. -/
theorem OnlyChanges.may_of_not_same {may : Part → Prop} {s t : State} (h : OnlyChanges may s t) (p : Part)
    (hp : ¬ p.same s t) : may p := by
  by_contra hm
  exact hp (h p hm)

theorem OnlyChanges.setSp (s : State) (b : Byte) : OnlyChanges (fun p => p = .sp) s (s.setSp b) := by
  intro p hp
  cases p with
  | sp => exact absurd rfl hp
  | _ => rfl

theorem OnlyChanges.setStack (s : State) (k : Nibble) (w : Word) :
    OnlyChanges (fun p => p = .stack k) s (s.setStack k w) := by
  intro p hp
  cases p with
  | stack j => exact (State.getStack_setStack s k w j).trans (if_neg fun h => hp (by rw [h]))
  | _ => rfl

theorem OnlyChanges.setDt (s : State) (b : Byte) : OnlyChanges (fun p => p = .dt) s (s.setDt b) := by
  intro p hp
  cases p with
  | dt => exact absurd rfl hp
  | _ => rfl

theorem OnlyChanges.setSt (s : State) (b : Byte) : OnlyChanges (fun p => p = .st) s (s.setSt b) := by
  intro p hp
  cases p with
  | st => exact absurd rfl hp
  | _ => rfl

theorem OnlyChanges.setFb (s : State) (fb : Framebuffer) :
    OnlyChanges (fun p => ∃ x y, p = .pixel x y) s (s.setFb fb) := by
  intro p hp
  cases p with
  | pixel x y => exact absurd ⟨x, y, rfl⟩ hp
  | _ => rfl

theorem OnlyChanges.setRunState (s : State) (r : RunState) :
    OnlyChanges (fun p => p = .runState) s (s.setRunState r) := by
  intro p hp
  cases p with
  | runState => exact absurd rfl hp
  | _ => rfl

theorem OnlyChanges.setWaitReg (s : State) (x : Nibble) : OnlyChanges (fun p => p = .waitReg) s (s.setWaitReg x) := by
  intro p hp
  cases p with
  | waitReg => exact absurd rfl hp
  | _ => rfl

theorem OnlyChanges.setDraw (s : State) (b : Bool) : OnlyChanges (fun p => p = .draw) s (s.setDraw b) := by
  intro p hp
  cases p with
  | draw => exact absurd rfl hp
  | _ => rfl

theorem OnlyChanges.setRandIn (s : State) (bs : List Byte) : OnlyChanges (fun p => p = .randIn) s (s.setRandIn bs) := by
  intro p hp
  cases p with
  | randIn => exact absurd rfl hp
  | _ => rfl

theorem OnlyChanges.bumpFree (s : State) : OnlyChanges (fun p => p = .freeCount) s s.bumpFree := by
  intro p hp
  cases p with
  | freeCount => exact absurd rfl hp
  | _ => rfl

/-- A sample of the random port changes the two inputs only (R151). -/
theorem OnlyChanges.drawByte (s : State) : OnlyChanges (fun p => p = .randIn ∨ p = .freeCount) s s.drawByte.2 := by
  rcases s.drawByte_cases with ⟨b, bs, -, h⟩ | ⟨-, h⟩
  · rw [h]
    exact (OnlyChanges.setRandIn s bs).mono fun _ => .inl
  · rw [h]
    exact (OnlyChanges.bumpFree s).mono fun _ => .inr

/-- A key query changes the counter of the free values only (R200). -/
theorem OnlyChanges.queryKey (s : State) (k : Byte) : OnlyChanges (fun p => p = .freeCount) s (s.queryKey k).2 := by
  rcases s.queryKey_cases k with ⟨-, h⟩ | ⟨-, h⟩
  · rw [h]
    exact OnlyChanges.refl _ s
  · rw [h]
    exact OnlyChanges.bumpFree s

/-- A store at I changes the bytes it writes only (R62, R176). -/
theorem OnlyChanges.storeBytes (s : State) (bs : List Byte) :
    OnlyChanges (fun p => ∃ k, k < bs.length ∧ p = .mem (s.i.toNat + k)) s (s.storeBytes bs) := by
  intro p hp
  cases p with
  | mem a =>
    refine Memory.read_writeFrom_outside s.mem s.i.toNat bs ?_
    by_contra ha
    exact hp ⟨a - s.i.toNat, by omega, congrArg Part.mem (by omega)⟩
  | _ => rfl

/-- A load into the registers from V0 on changes as many registers as there are bytes (R175). -/
theorem OnlyChanges.loadRegsFrom (s : State) (bs : List Byte) (hb : bs.length ≤ 16) :
    OnlyChanges (fun p => ∃ r : Nibble, r.toNat < bs.length ∧ p = .v r) s (s.loadRegsFrom 0 bs) := by
  intro p hp
  cases p with
  | v r =>
    refine (State.getV_loadRegsFrom s 0 bs (by omega) r).trans (dif_neg fun hr => ?_)
    exact hp ⟨r, by omega, rfl⟩
  | _ => rw [State.loadRegsFrom_eq]; rfl

/-! ### What an instruction that completes has done -/

/-- An access that is answered has passed the span check (R63). -/
theorem State.withSpan_eq_next {s t u : State} {count : Nat} (h : s.withSpan count u = .next t) :
    u = t ∧ (count = 0 ∨ s.i.toNat + count - 1 ≤ 0xFFF) := by
  rcases s.withSpan_cases count u with ⟨h', hc⟩ | ⟨-, -, h'⟩
  · rw [h'] at h
    exact ⟨Host.Outcome.next.inj h, hc⟩
  · rw [h'] at h
    cases h

/-- A return that completes (R121): SP selects an entry, PC takes it, and SP goes down. -/
theorem execRet_eq_next {s t : State} (h : execRet s = .next t) :
    s.sp.toNat ≤ 15 ∧ t = (s.setPc (s.getStack (s.sp.setWidth 4))).setSp (s.sp - 1#8) := by
  unfold execRet at h
  rw [stackSlot_chosen] at h
  by_cases hsp : s.sp.toNat ≤ 15
  · rw [if_pos hsp] at h
    exact ⟨hsp, (Host.Outcome.next.inj h).symm⟩
  · rw [if_neg hsp] at h
    cases h

/-- A call that completes (R123): the new SP selects an entry, which takes PC. -/
theorem execCall_eq_next {nnn : Addr} {s t : State} (h : execCall nnn s = .next t) :
    (s.sp + 1#8).toNat ≤ 15 ∧
    t = ((s.setSp (s.sp + 1#8)).setStack ((s.sp + 1#8).setWidth 4) s.pc).setPc (zextAddr nnn) := by
  unfold execCall at h
  rw [stackSlot_chosen] at h
  by_cases hsp : (s.sp + 1#8).toNat ≤ 15
  · rw [if_pos hsp] at h
    exact ⟨hsp, (Host.Outcome.next.inj h).symm⟩
  · rw [if_neg hsp] at h
    cases h

/-- The parts of the state that an instruction can change when it completes in `s`. -/
def Instr.mayChange (s : State) : Instr → Part → Prop
  | .cls => fun p => ∃ x y, p = .pixel x y
  | .ret => fun p => p = .pc ∨ p = .sp
  | .call _ => fun p => p = .pc ∨ p = .sp ∨ ∃ k, p = .stack k
  | .jp _ | .jpV0 _ | .seImm _ _ | .sneImm _ _ | .seReg _ _ _ | .sneReg _ _ _ => fun p => p = .pc
  | .skp _ | .sknp _ => fun p => p = .pc ∨ p = .freeCount
  | .ldImm x _ | .addImm x _ | .ldReg x _ | .orReg x _ | .andReg x _ | .xorReg x _ | .ldVxDt x => fun p => p = .v x
  | .addReg x _ | .subReg x _ | .shr x _ | .subnReg x _ | .shl x _ => fun p => p = .v x ∨ p = .v 15#4
  | .rnd x _ => fun p => p = .v x ∨ p = .randIn ∨ p = .freeCount
  | .drw _ _ _ => fun p => p = .v 15#4 ∨ p = .draw ∨ ∃ x y, p = .pixel x y
  | .ldI _ | .addIVx _ | .ldFVx _ => fun p => p = .i
  | .ldBVx _ => fun p => ∃ k, k < 3 ∧ p = .mem (s.i.toNat + k)
  | .ldMemVx x => fun p => ∃ k, k < x.toNat + 1 ∧ p = .mem (s.i.toNat + k)
  | .ldVxMem x => fun p => ∃ r : Nibble, r ≤ x ∧ p = .v r
  | .ldVxK _ => fun p => p = .waitReg ∨ p = .runState
  | .ldDtVx _ => fun p => p = .dt
  | .ldStVx _ => fun p => p = .st
  | .nop _ => fun _ => False

/-- A key skip changes PC and the counter of the free values only (R200, R201). -/
theorem OnlyChanges.queryKey_skipIf (s : State) (k : Byte) (c : Bool) :
    OnlyChanges (fun p => p = .pc ∨ p = .freeCount) s ((s.queryKey k).2.skipIf c) :=
  ((OnlyChanges.queryKey s k).mono fun _ => .inr).trans ((OnlyChanges.skipIf _ c).mono fun _ => .inl)

/-- The frame of every instruction that completes. -/
theorem exec_onlyChanges {i : Instr} {s t : State} (h : exec i s = .next t) :
    OnlyChanges (Instr.mayChange s i) s t := by
  cases i with
  | cls => cases h; exact OnlyChanges.setFb s _
  | ret =>
    obtain ⟨-, rfl⟩ := execRet_eq_next h
    exact ((OnlyChanges.setPc s _).mono fun _ => .inl).trans ((OnlyChanges.setSp _ _).mono fun _ => .inr)
  | call nnn =>
    obtain ⟨-, rfl⟩ := execCall_eq_next h
    exact (((OnlyChanges.setSp s _).mono fun _ hp => .inr (.inl hp)).trans
      ((OnlyChanges.setStack _ _ _).mono fun _ hp => .inr (.inr ⟨_, hp⟩))).trans
      ((OnlyChanges.setPc _ _).mono fun _ => .inl)
  | jp _ | jpV0 _ => cases h; exact OnlyChanges.setPc s _
  | seImm _ _ | sneImm _ _ | seReg _ _ _ | sneReg _ _ _ => cases h; exact OnlyChanges.skipIf s _
  | skp _ | sknp _ => cases h; exact OnlyChanges.queryKey_skipIf s _ _
  | ldImm x _ | addImm x _ | ldReg x _ | orReg x _ | andReg x _ | xorReg x _ | ldVxDt x =>
    cases h; exact OnlyChanges.setV s x _
  | addReg x _ | subReg x _ | shr x _ | subnReg x _ | shl x _ => cases h; exact OnlyChanges.setWithFlag s x _ _
  | rnd x _ =>
    cases h
    exact ((OnlyChanges.drawByte s).mono fun _ => .inr).trans ((OnlyChanges.setV _ x _).mono fun _ => .inl)
  | drw x y n =>
    obtain ⟨rfl, -⟩ := State.withSpan_eq_next h
    exact (((OnlyChanges.setV s _ _).mono fun _ => .inl).trans
      ((OnlyChanges.setFb _ _).mono fun _ hp => .inr (.inr hp))).trans
      ((OnlyChanges.setDraw _ _).mono fun _ hp => .inr (.inl hp))
  | ldI _ | addIVx _ | ldFVx _ => cases h; exact OnlyChanges.setI s _
  | ldBVx _ =>
    obtain ⟨rfl, -⟩ := State.withSpan_eq_next h
    exact OnlyChanges.storeBytes s (bcdDigits _)
  | ldMemVx x =>
    obtain ⟨rfl, -⟩ := State.withSpan_eq_next h
    exact (OnlyChanges.storeBytes s _).mono fun _ hp => by rwa [State.length_firstRegs] at hp
  | ldVxMem x =>
    obtain ⟨rfl, -⟩ := State.withSpan_eq_next h
    refine (OnlyChanges.loadRegsFrom s _ (by rw [State.length_loadBytes]; omega)).mono fun p hp => ?_
    obtain ⟨r, hr, rfl⟩ := hp
    rw [State.length_loadBytes] at hr
    exact ⟨r, Nat.le_of_lt_succ hr, rfl⟩
  | ldVxK x =>
    cases h
    exact ((OnlyChanges.setWaitReg s x).mono fun _ => .inl).trans ((OnlyChanges.setRunState _ _).mono fun _ => .inr)
  | ldDtVx _ => cases h; exact OnlyChanges.setDt s _
  | ldStVx _ => cases h; exact OnlyChanges.setSt s _
  | nop _ => cases h; exact OnlyChanges.refl _ s

/-! ### Which instruction can change which part -/

/-- Settles O26: the frame of the instruction, read at a register. -/
theorem registerWriters : Obligations.RegisterWriters := by
  intro i s t r h hr
  have hm : Instr.mayChange s i (.v r) := (exec_onlyChanges h).may_of_not_same _ hr
  cases i with
  | addReg _ _ | subReg _ _ | shr _ _ | subnReg _ _ | shl _ _ =>
    rcases hm with hx | hf
    · exact .inl (Part.v.inj hx)
    · exact .inr ⟨Part.v.inj hf, by simp⟩
  | drw _ _ _ => exact .inr (by simpa [Instr.mayChange] using hm)
  | ldImm _ _ | addImm _ _ | ldReg _ _ | orReg _ _ | andReg _ _ | xorReg _ _ | ldVxDt _ => exact .inl (Part.v.inj hm)
  | rnd _ _ | ldVxMem _ => exact .inl (by simpa [Instr.mayChange, Instr.names] using hm)
  | _ => simp [Instr.mayChange] at hm

/-- Stacks that differ differ in an entry. -/
theorem State.exists_getStack_ne {s t : State} (h : t.stack ≠ s.stack) : ∃ k, t.getStack k ≠ s.getStack k := by
  by_contra hk
  exact h (vector16_ext_nibble fun k => not_not.1 fun hne => hk ⟨k, hne⟩)

/-- Framebuffers that differ differ in a cell. -/
theorem State.exists_pixel_ne {s t : State} (h : t.fb ≠ s.fb) : ∃ x y, t.fb.pixel x y ≠ s.fb.pixel x y := by
  by_contra hk
  exact h (Framebuffer.ext_of_pixel fun x y => not_not.1 fun hne => hk ⟨x, y, hne⟩)

/-- Settles O46: the frame of the instruction, read at each special register; an instruction whose frame has the
register is one of those listed. -/
theorem specialRegisterWriters : Obligations.SpecialRegisterWriters := by
  intro i s t h
  have changed := (exec_onlyChanges h).may_of_not_same
  have stackChanged : t.stack ≠ s.stack → ∃ k, Instr.mayChange s i (.stack k) := fun hne =>
    (State.exists_getStack_ne hne).imp fun k => changed (.stack k)
  refine ⟨(fun hm => ?_) ∘ changed .pc, (fun hm => ?_) ∘ changed .i, (fun hm => ?_) ∘ changed .sp,
    (fun hm => ?_) ∘ stackChanged, (fun hm => ?_) ∘ changed .dt, (fun hm => ?_) ∘ changed .st⟩ <;>
    cases i <;> simp [Instr.mayChange] at hm ⊢

/-- Settles O47: the frame of the instruction, read at a byte of memory and at a cell of the framebuffer. -/
theorem memoryAndScreenWriters : Obligations.MemoryAndScreenWriters := by
  intro i s t h
  have frame := exec_onlyChanges h
  refine ⟨fun a ha => ?mem, fun hne => ?fb⟩
  case mem =>
    have hm : Instr.mayChange s i (.mem a) := frame.may_of_not_same _ ha
    cases i with
    | ldBVx x =>
      obtain ⟨k, hk, ha⟩ := hm
      cases ha
      exact .inl ⟨x, rfl, by omega, by omega⟩
    | ldMemVx x =>
      obtain ⟨k, hk, ha⟩ := hm
      cases ha
      exact .inr ⟨x, rfl, by omega, by omega⟩
    | _ => simp [Instr.mayChange] at hm
  case fb =>
    obtain ⟨x, y, hxy⟩ := State.exists_pixel_ne hne
    have hm : Instr.mayChange s i (.pixel x y) := frame.may_of_not_same _ hxy
    cases i <;> simp [Instr.mayChange] at hm ⊢

/-- No instruction changes a part that belongs to the environment or to the run loop (R32, R43; logs 9, 24). -/
theorem Instr.not_mayChange_environment (s : State) (i : Instr) {p : Part}
    (hp : (∃ k, p = .key k) ∨ p = .quit ∨ p = .started ∨ p = .turns) : ¬ Instr.mayChange s i p := by
  rcases hp with ⟨k, rfl⟩ | rfl | rfl | rfl <;> cases i <;> simp [Instr.mayChange]

/-- DRW sets draw, and every other instruction leaves it (R42, R192). -/
theorem exec_draw_cases {i : Instr} {s t : State} (h : exec i s = .next t) :
    (t.draw = true ∧ ∃ x y n, i = .drw x y n) ∨ (t.draw = s.draw ∧ ¬ ∃ x y n, i = .drw x y n) := by
  by_cases hi : ∃ x y n, i = .drw x y n
  · obtain ⟨x, y, n, rfl⟩ := hi
    obtain ⟨rfl, -⟩ := State.withSpan_eq_next h
    exact .inl ⟨rfl, x, y, n, rfl⟩
  · refine .inr ⟨exec_onlyChanges h .draw fun hm => hi ?_, hi⟩
    cases i <;> simp [Instr.mayChange] at hm ⊢

/-- A step that fetches runs the fetched word, with the turn taken and PC moved on (R67). -/
theorem step_of_fetches {s : State} (hs : s.fetches) : step s = exec (decodeWord s.fetchWord) s.inTurn.advance := by
  obtain ⟨hmover, hrun, hpc⟩ := hs
  rcases step_cases s with ⟨-, h⟩ | ⟨-, -, h, -⟩ | ⟨-, h, -⟩ | ⟨e, h, -⟩
  · exact h
  · omega
  · exact absurd hrun h
  · rw [hmover] at h
    cases h

/-- Settles O48: the frame of the instruction for the first part; for the second, a fetch clears draw before the
instruction runs. -/
theorem runLoopStateWriters : Obligations.RunLoopStateWriters := by
  refine ⟨fun i s t h => ?_, fun s t hs h => ?_⟩
  · have frame := exec_onlyChanges h
    have kept : ∀ {p : Part}, ((∃ k, p = .key k) ∨ p = .quit ∨ p = .started ∨ p = .turns) → p.same s t :=
      fun hp => frame _ (Instr.not_mayChange_environment s i hp)
    refine ⟨vector16_ext_nibble fun k => kept (p := .key k) (by simp), kept (p := .quit) (by simp),
      kept (p := .started) (by simp), kept (p := .turns) (by simp), fun hne => ?_⟩
    have hm : Instr.mayChange s i .runState ∨ Instr.mayChange s i .waitReg :=
      hne.imp (frame.may_of_not_same .runState) (frame.may_of_not_same .waitReg)
    cases i <;> simp [Instr.mayChange] at hm ⊢
  · rw [step_of_fetches hs] at h
    rcases exec_draw_cases h with ⟨hd, hi⟩ | ⟨hd, hi⟩
    · exact iff_of_true hd hi
    · rw [State.advance_draw] at hd
      exact iff_of_false (by simp [hd]) hi

/-! ### Where PC goes -/

/-- The instructions that skip (R120). -/
def Instr.skips (i : Instr) : Prop :=
  (∃ x kk, i = .seImm x kk ∨ i = .sneImm x kk) ∨ (∃ x y low, i = .seReg x y low ∨ i = .sneReg x y low) ∨
    ∃ x, i = .skp x ∨ i = .sknp x

/-- A key query leaves PC alone. -/
@[simp] theorem State.queryKey_pc (s : State) (k : Byte) : (s.queryKey k).2.pc = s.pc :=
  OnlyChanges.queryKey s k .pc (by simp)

/-- A skip leaves PC, or moves it on by 2 (R120). -/
theorem State.skipIf_pc_cases (s : State) (c : Bool) : (s.skipIf c).pc = s.pc ∨ (s.skipIf c).pc = s.pc + 2#16 := by
  cases c
  · exact .inl rfl
  · exact .inr rfl

/-- A skip instruction answers a skip from a state in which PC is where the fetch left it (R124 to R127, R200, R201). -/
theorem exec_of_skips {i : Instr} (hi : Instr.skips i) (s : State) :
    ∃ (u : State) (c : Bool), u.pc = s.pc ∧ exec i s = .next (u.skipIf c) := by
  rcases hi with ⟨x, kk, rfl | rfl⟩ | ⟨x, y, low, rfl | rfl⟩ | ⟨x, rfl | rfl⟩
  · exact ⟨s, _, rfl, rfl⟩
  · exact ⟨s, _, rfl, rfl⟩
  · exact ⟨s, _, rfl, rfl⟩
  · exact ⟨s, _, rfl, rfl⟩
  · exact ⟨_, _, s.queryKey_pc _, rfl⟩
  · exact ⟨_, _, s.queryKey_pc _, rfl⟩

theorem exec_pc_of_skips {i : Instr} {s t : State} (hi : Instr.skips i) (h : exec i s = .next t) :
    t.pc = s.pc ∨ t.pc = s.pc + 2#16 := by
  obtain ⟨u, c, hu, hexec⟩ := exec_of_skips hi s
  cases hexec.symm.trans h
  rw [← hu]
  exact u.skipIf_pc_cases c

/-- Everything PC can do in an instruction: it stays where the fetch left it, it skips, or the instruction is a
return, a jump or a call. -/
theorem exec_pc_cases {i : Instr} {s t : State} (h : exec i s = .next t) :
    t.pc = s.pc ∨ (Instr.skips i ∧ t.pc = s.pc + 2#16) ∨ i = .ret ∨
      ∃ nnn, i = .jp nnn ∨ i = .call nnn ∨ i = .jpV0 nnn := by
  by_cases hpc : t.pc = s.pc
  · exact .inl hpc
  · rcases (specialRegisterWriters i s t h).1 hpc with hi | hi | hi
    · exact .inr (.inr (.inl hi))
    · exact .inr (.inr (.inr hi))
    · exact .inr (.inl ⟨hi, (exec_pc_of_skips hi h).resolve_left hpc⟩)

/-- PC after a fetch, as a number: a successful fetch does not wrap (R67, D2). -/
theorem State.inTurn_advance_pc_toNat {s : State} (h : s.pc.toNat ≤ 0xFFE) :
    (s.inTurn.advance).pc.toNat = s.pc.toNat + 2 := by
  show (s.pc + 2#16).toNat = _
  rw [BitVec.toNat_add, BitVec.toNat_ofNat]
  omega

/-- Settles O49: the fetch moves PC on by 2 without wrapping, and then the instruction leaves it or skips. -/
theorem sequentialStepsAdvanceByTwo : Obligations.SequentialStepsAdvanceByTwo := by
  intro s t i hs h hi
  have ⟨_, _, hbound⟩ := hs
  have hadv := State.inTurn_advance_pc_toNat hbound
  have hexec : exec i s.inTurn.advance = .next t := by
    rw [← hi]
    exact (step_of_fetches hs).symm.trans h
  rcases exec_pc_cases hexec with hpc | ⟨hskip, hpc⟩ | hi
  · exact .inl (by rw [hpc, hadv])
  · refine .inr (.inl ⟨?_, hskip⟩)
    rw [hpc, BitVec.toNat_add, BitVec.toNat_ofNat, hadv]
    omega
  · exact .inr (.inr hi)

/-! ### The invariant of every state -/

@[simp] theorem State.queryKey_mem (s : State) (k : Byte) : (s.queryKey k).2.mem = s.mem := by
  rcases s.queryKey_cases k with ⟨-, h⟩ | ⟨-, h⟩ <;> simp [h]

@[simp] theorem State.drawByte_mem (s : State) : s.drawByte.2.mem = s.mem := by
  rcases s.drawByte_cases with ⟨b, bs, -, h⟩ | ⟨-, h⟩ <;> simp [h]

@[simp] theorem State.skipIf_mem (s : State) (c : Bool) : (s.skipIf c).mem = s.mem := by
  rw [State.skipIf_eq, State.setPc_mem]

@[simp] theorem State.loadRegsFrom_mem (s : State) (k : Nat) (bs : List Byte) : (s.loadRegsFrom k bs).mem = s.mem := by
  rw [State.loadRegsFrom_eq]

/-- A store inside memory keeps the canonical form. -/
theorem State.storeBytes_mem_wf {s : State} (hm : s.mem.wf) (bs : List Byte) (hb : s.i.toNat + bs.length ≤ 4096) :
    (s.storeBytes bs).mem.wf := by
  rw [State.storeBytes_eq]
  exact Memory.writeFrom_wf hm _ bs hb

/-- Every instruction keeps memory canonical: only Fx33 and Fx55 write to it, and the span check keeps them
inside (R63). -/
theorem exec_mem_wf {i : Instr} {s t : State} (hm : s.mem.wf) (h : exec i s = .next t) : t.mem.wf := by
  cases i with
  | ldBVx x =>
    obtain ⟨rfl, hspan⟩ := State.withSpan_eq_next h
    exact State.storeBytes_mem_wf hm (bcdDigits _) (by simp only [bcdDigits, List.length_cons, List.length_nil]; omega)
  | ldMemVx x =>
    obtain ⟨rfl, hspan⟩ := State.withSpan_eq_next h
    exact State.storeBytes_mem_wf hm _ (by rw [State.length_firstRegs]; omega)
  | drw _ _ _ | ldVxMem _ =>
    obtain ⟨rfl, -⟩ := State.withSpan_eq_next h
    simpa using hm
  | ret =>
    obtain ⟨-, rfl⟩ := execRet_eq_next h
    exact hm
  | call _ =>
    obtain ⟨-, rfl⟩ := execCall_eq_next h
    exact hm
  | skp _ | sknp _ | rnd _ _ | seImm _ _ | sneImm _ _ | seReg _ _ _ | sneReg _ _ _ =>
    cases h
    simpa using hm
  | _ => cases h; exact hm

/-- An instruction that runs while Running keeps the invariant: quit is not set, and no instruction sets it. -/
theorem exec_keeps_inv {i : Instr} {s t : State} (hs : s.Inv) (hrun : s.runState = .running) (h : exec i s = .next t) :
    t.Inv := by
  obtain ⟨hm, hq⟩ := hs
  refine ⟨exec_mem_wf hm h, fun htq => ?_⟩
  have hquit : t.quit = s.quit := exec_onlyChanges h .quit (Instr.not_mayChange_environment s i (by simp))
  exact absurd (hrun.symm.trans (hq (hquit ▸ htq))) (by decide)

/-- Everything a tick can do (R237, R238). -/
theorem State.tick_cases (s : State) :
    (s.runState = .running ∧ s.tick = (s.setDt (countDown s.dt)).setSt (countDown s.st)) ∨
    (s.runState ≠ .running ∧ s.tick = s) := by
  unfold State.tick
  cases hr : s.runState with
  | running => exact .inl ⟨rfl, rfl⟩
  | blocked | halted => exact .inr ⟨by decide, rfl⟩

/-- Everything a key press can do (R234). -/
theorem State.keyPress_cases (s : State) (k : Nibble) :
    (s.runState = .blocked ∧
      s.keyPress k = ((s.setKey k true).setV s.waitReg (k.setWidth 8)).setRunState .running) ∨
    (s.runState ≠ .blocked ∧ s.keyPress k = s.setKey k true) := by
  unfold State.keyPress
  cases hr : s.runState with
  | blocked => exact .inl ⟨rfl, rfl⟩
  | running | halted => exact .inr ⟨by decide, rfl⟩

/-- A key press ends a wait only when quit is not set. -/
theorem State.keyPress_keeps_inv {s : State} (hs : s.Inv) (k : Nibble) : (s.keyPress k).Inv := by
  obtain ⟨hm, hq⟩ := hs
  rcases s.keyPress_cases k with ⟨hblocked, h⟩ | ⟨-, h⟩ <;> rw [h]
  · exact ⟨hm, fun hquit => absurd (hblocked.symm.trans (hq hquit)) (by decide)⟩
  · exact ⟨hm, hq⟩

theorem powerOn_inv (p : ResetValues) : (powerOn p).Inv := ⟨powerOn_mem_wf p, fun h => nomatch h⟩

/-- Every event keeps the invariant. -/
theorem deliver_keeps_inv {e : Event} {s t : State} (hs : s.Inv) (h : deliver e s = .next t) : t.Inv := by
  obtain ⟨hm, hq⟩ := hs
  cases e with
  | timerTick =>
    cases h
    rcases s.tick_cases with ⟨-, ht⟩ | ⟨-, ht⟩ <;> rw [ht] <;> exact ⟨hm, hq⟩
  | keyDown k => cases h; exact State.keyPress_keeps_inv ⟨hm, hq⟩ k
  | keyUp _ | setKeyState _ _ | saveState => cases h; exact ⟨hm, hq⟩
  | quit => cases h; exact ⟨hm, fun _ => rfl⟩
  | loadProgram image =>
    rcases s.loadProgram_cases image with ⟨-, hl⟩ | ⟨-, -, hl⟩ | ⟨-, hlen, hl⟩ <;> cases hl.symm.trans h
    exact ⟨Memory.writeFrom_wf hm 0x200 image (by omega), hq⟩
  | restoreState image =>
    cases h
    obtain ⟨-, hrun, -, -, hquit, -⟩ := s.restore_keeps image
    exact ⟨s.restore_mem_wf image hm, by rwa [hquit, hrun]⟩
  | reset p => cases h; exact powerOn_inv p

/-- Settles O50: a step is an instruction, a halt, an idle turn or an event, and each keeps the invariant. -/
theorem stepKeepsCanonicalMemoryAndQuit : Obligations.StepKeepsCanonicalMemoryAndQuit := by
  intro s t hs h
  rcases step_cases s with ⟨⟨-, hrun, -⟩, hstep⟩ | ⟨-, -, -, hstep⟩ | ⟨-, -, hstep⟩ | ⟨e, -, hstep⟩ <;>
    rw [hstep] at h
  · exact exec_keeps_inv (s := s.inTurn.advance) hs hrun h
  · cases h
    exact ⟨hs.1, fun _ => rfl⟩
  · cases h
    exact hs
  · exact deliver_keeps_inv (s := s.inTurn) hs h

/-! ### The bounds of PC, the stack and SP -/

theorem zextAddr_toNat_le (nnn : Addr) : (zextAddr nnn).toNat ≤ 0xFFF := by
  rw [zextAddr, BitVec.toNat_setWidth]
  omega

/-- The target of Bnnn is at most 0xFF + 0xFFF (R128, D26). -/
theorem jpV0_target_le (b : Byte) (nnn : Addr) : (zextByte b + zextAddr nnn).toNat ≤ 0x10FE := by
  have hb : (zextByte b).toNat = b.toNat := BitVec.toNat_setWidth_of_le (by decide)
  have hn := zextAddr_toNat_le nnn
  rw [BitVec.toNat_add, hb]
  omega

/-- After a fetch, every instruction leaves PC at most 0x10FE. -/
theorem exec_pc_le {i : Instr} {s t : State} (hpc : s.pc.toNat ≤ 0x1000)
    (hstack : ∀ k, (s.getStack k).toNat ≤ 0x1000) (h : exec i s = .next t) : t.pc.toNat ≤ 0x10FE := by
  rcases exec_pc_cases h with hp | ⟨-, hp⟩ | rfl | ⟨nnn, rfl | rfl | rfl⟩
  · rw [hp]
    omega
  · rw [hp, BitVec.toNat_add, BitVec.toNat_ofNat]
    omega
  · obtain ⟨-, rfl⟩ := execRet_eq_next h
    have := hstack (s.sp.setWidth 4)
    exact Nat.le_trans this (by decide)
  · cases h
    exact Nat.le_trans (zextAddr_toNat_le nnn) (by decide)
  · obtain ⟨-, rfl⟩ := execCall_eq_next h
    exact Nat.le_trans (zextAddr_toNat_le nnn) (by decide)
  · cases h
    exact jpV0_target_le _ nnn

/-- A call pushes PC, and nothing else writes the stack. -/
theorem exec_stack_le {i : Instr} {s t : State} (hpc : s.pc.toNat ≤ 0x1000)
    (hstack : ∀ k, (s.getStack k).toNat ≤ 0x1000) (h : exec i s = .next t) (k : Nibble) :
    (t.getStack k).toNat ≤ 0x1000 := by
  obtain ⟨-, -, -, hwriter, -⟩ := specialRegisterWriters i s t h
  by_cases hst : t.stack = s.stack
  · simpa only [State.getStack, hst] using hstack k
  · obtain ⟨nnn, rfl⟩ := hwriter hst
    obtain ⟨-, rfl⟩ := execCall_eq_next h
    rw [State.setPc_getStack, State.getStack_setStack]
    split
    · exact hpc
    · exact hstack k

/-- A return from entry 0 leaves SP idle, and a call selects an entry; nothing else writes SP. -/
theorem exec_sp_idle_or_le {i : Instr} {s t : State} (hsp : s.sp = Config.spIdle ∨ s.sp.toNat ≤ 15)
    (h : exec i s = .next t) : t.sp = Config.spIdle ∨ t.sp.toNat ≤ 15 := by
  obtain ⟨-, -, hwriter, -⟩ := specialRegisterWriters i s t h
  by_cases hst : t.sp = s.sp
  · rwa [hst]
  · rcases hwriter hst with rfl | ⟨nnn, rfl⟩
    · obtain ⟨hle, rfl⟩ := execRet_eq_next h
      rw [State.setSp_sp]
      bv_omega
    · obtain ⟨hle, rfl⟩ := execCall_eq_next h
      exact .inr hle

/-- An instruction that was fetched keeps the bounds. -/
theorem exec_keeps_launched {i : Instr} {s t : State} (hs : s.Launched) (hpc : s.pc.toNat ≤ 0x1000)
    (h : exec i s = .next t) : t.Launched := by
  obtain ⟨hturns, -, hstack, hsp⟩ := hs
  have ht : t.turns = s.turns := exec_onlyChanges h .turns (Instr.not_mayChange_environment s i (by simp))
  exact ⟨by rwa [ht], exec_pc_le hpc hstack h, exec_stack_le hpc hstack h, exec_sp_idle_or_le hsp h⟩

theorem State.inTurn_launched {s : State} (hs : s.Launched) : s.inTurn.Launched := by
  obtain ⟨hturns, hbounds⟩ := hs
  exact ⟨fun image h => hturns image (List.mem_of_mem_tail h), hbounds⟩

theorem State.inTurn_advance_launched {s : State} (hs : s.Launched) (hpc : s.pc.toNat ≤ 0xFFE) :
    s.inTurn.advance.Launched := by
  obtain ⟨hturns, -, hbounds⟩ := State.inTurn_launched hs
  exact ⟨hturns, by rw [State.inTurn_advance_pc_toNat hpc]; omega, hbounds⟩

theorem State.mover_mem_turns {s : State} {e : Event} (h : s.mover = .environment e) : .environment e ∈ s.turns := by
  unfold State.mover at h
  split at h
  · cases h
  · rename_i hts
    rw [hts, h]
    exact List.mem_cons_self ..

@[simp] theorem powerOn_getV (p : ResetValues) (r : Nibble) : (powerOn p).getV r = 0#8 :=
  Vector.getElem_replicate r.isLt

@[simp] theorem powerOn_getStack (p : ResetValues) (k : Nibble) : (powerOn p).getStack k = 0#16 :=
  Vector.getElem_replicate k.isLt

theorem powerOn_launched (p : ResetValues) : (powerOn p).Launched := by
  refine ⟨fun _ => List.not_mem_nil, ?_, fun k => ?_, .inl rfl⟩
  · show (BitVec.ofNat 16 Config.progStart).toNat ≤ 0x10FE
    decide
  · rw [powerOn_getStack]
    decide

/-- A reset keeps the turns to come, and takes the rest from the reset state (R260, log 27). -/
theorem State.reconstruct_launched {s : State} (p : ResetValues) (hs : s.Launched) : (s.reconstruct p).Launched :=
  ⟨hs.1, (powerOn_launched p).2⟩

/-- Every event but a restore keeps the bounds. -/
theorem deliver_keeps_launched {e : Event} {s t : State} (hs : s.Launched) (he : ∀ image, e ≠ .restoreState image)
    (h : deliver e s = .next t) : t.Launched := by
  cases e with
  | timerTick =>
    cases h
    rcases s.tick_cases with ⟨-, ht⟩ | ⟨-, ht⟩ <;> rw [ht] <;> exact hs
  | keyDown k =>
    cases h
    rcases s.keyPress_cases k with ⟨-, hk⟩ | ⟨-, hk⟩ <;> rw [hk] <;> exact hs
  | keyUp _ | setKeyState _ _ | quit | saveState => cases h; exact hs
  | loadProgram image =>
    rcases s.loadProgram_cases image with ⟨-, hl⟩ | ⟨-, -, hl⟩ | ⟨-, -, hl⟩ <;> cases hl.symm.trans h
    exact hs
  | restoreState image => exact absurd rfl (he image)
  | reset p => cases h; exact State.reconstruct_launched p hs

/-- Settles O51: a step is an instruction, a halt, an idle turn or an event that is no restore, and each keeps the
bounds. -/
theorem stepKeepsLaunchedBounds : Obligations.StepKeepsLaunchedBounds := by
  intro s t hs h
  have hturn := State.inTurn_launched hs
  rcases step_cases s with ⟨⟨-, -, hpc⟩, hstep⟩ | ⟨-, -, -, hstep⟩ | ⟨-, -, hstep⟩ | ⟨e, he, hstep⟩ <;>
    rw [hstep] at h
  · have hadv := State.inTurn_advance_pc_toNat hpc
    exact exec_keeps_launched (State.inTurn_advance_launched hs hpc) (by omega) h
  · cases h
    exact hturn
  · cases h
    exact hturn
  · refine deliver_keeps_launched hturn (fun image hi => ?_) h
    have hmem := State.mover_mem_turns he
    obtain ⟨hturns, -⟩ := hs
    exact hturns image (hi ▸ hmem)

/-! ### Reset -/

/-- The bytes of a reset memory below 0x050 are GLYPHS (R45). -/
theorem powerOn_read_glyphs (p : ResetValues) (a : Fin 80) : (powerOn p).mem.read a = p.glyphs[a] := by
  rw [powerOn_mem, Memory.read_ofBytes _ (by simp), dif_pos (by simp; omega)]
  simp

/-- The bytes of a reset memory from 0x050 on are MEM_INIT (R45). -/
theorem powerOn_read_memInit (p : ResetValues) (a : Fin 4016) : (powerOn p).mem.read (0x050 + a) = p.memInit[a] := by
  rw [powerOn_mem, Memory.read_ofBytes _ (by simp), dif_pos (by simp; omega)]
  simp

theorem Memory.blank_of_le {a : Nat} (h : 80 ≤ a) : Memory.blank a = 0x00#8 :=
  List.getD_eq_default _ _ h

/-- With the chosen values every address reads as unlisted. -/
theorem powerOn_chosen_read {a : Nat} (ha : a < 4096) : (powerOn ResetValues.chosen).mem.read a = Memory.blank a := by
  by_cases h : a < 80
  · rw [powerOn_read_glyphs _ ⟨a, h⟩]
    exact Vector.getElem_ofFn h
  · obtain ⟨k, rfl⟩ := Nat.exists_eq_add_of_le (Nat.le_of_not_lt h)
    rw [powerOn_read_memInit _ ⟨k, by omega⟩, Memory.blank_of_le (by omega)]
    exact Vector.getElem_replicate _

theorem powerOn_chosen_mem : (powerOn ResetValues.chosen).mem = [] :=
  Memory.ext_of_read (powerOn_mem_wf _) Memory.wf_nil fun _ ha => powerOn_chosen_read ha

/-- Reset states differ in the open values only (R45). -/
theorem powerOn_eq (p : ResetValues) : powerOn p =
    { State.reset with mem := (powerOn p).mem, fb := p.fbInit, keys := p.keysInit, waitReg := p.waitInit } := rfl

/-- Settles O54: the memories agree by their bytes, and the other parts are the same values. -/
theorem resetIsPowerOnWithTheChosenValues : Obligations.ResetIsPowerOnWithTheChosenValues := by
  unfold Obligations.ResetIsPowerOnWithTheChosenValues
  rw [powerOn_eq, powerOn_chosen_mem]
  rfl

/-- Settles O53: memory by the bytes of the reset image, the rest as `powerOn` lists it. -/
theorem resetLeavesTheStatedValues : Obligations.ResetLeavesTheStatedValues := fun p =>
  ⟨powerOn_getV p, rfl, rfl, rfl, powerOn_getStack p, rfl, rfl, powerOn_read_glyphs p, powerOn_read_memInit p,
    rfl, rfl, rfl, rfl⟩

/-- Settles O52: for every choice of the open values, and so for the chosen ones. -/
theorem resetMeetsTheInvariants : Obligations.ResetMeetsTheInvariants := by
  have hall (p : ResetValues) : (powerOn p).Inv ∧ (powerOn p).Launched := ⟨powerOn_inv p, powerOn_launched p⟩
  refine ⟨hall, ?_⟩
  rw [resetIsPowerOnWithTheChosenValues]
  exact hall _

end Sys2Proof.Machine
end

section
/-! PROOFS of the family 20_memory: every decoded instruction is well formed, the step that fetches, accesses past
0xFFF, a store that the next fetch sees, and what writes main memory while a program is running. -/

namespace Sys2Proof

open BitVec

/-! ### The decoder answers well-formed instructions -/

/-- Where a row's mask examines a whole field, a word in the row has the field of the row's pattern (R100). -/
theorem OpcodeRow.field_eq_of_fits {r : OpcodeRow} {w : Word} (h : r.fits w = true) {start len : Nat}
    (hmask : r.mask.extractLsb' start len = allOnes len) :
    r.pattern.extractLsb' start len = w.extractLsb' start len := by
  have hw : w &&& r.mask = r.pattern := beq_iff_eq.1 h
  rw [← hw, extractLsb'_and, hmask, and_allOnes]

/-- Every row of the map examines the family (R94). -/
theorem opcodeMap_mask_family : ∀ r ∈ opcodeMap, r.mask.extractLsb' 12 4 = allOnes 4 := by decide

/-- A word is unassigned when its low `len` bits are the secondary discriminant of no row of its family (R94, R101). -/
theorem unassigned_of_discriminant {w : Word} {f : Nibble} {len : Nat} (ds : List Nat) (hf : familyOf w = f)
    (hmap : ∀ r ∈ opcodeMap, familyOf r.pattern = f →
      r.mask.extractLsb' 0 len = allOnes len ∧ (r.pattern.extractLsb' 0 len).toNat ∈ ds)
    (hw : (w.extractLsb' 0 len).toNat ∉ ds) : unassigned w = true := by
  refine List.all_eq_true.2 fun r hr => ?_
  by_contra hfit
  have hfit : r.fits w = true := by simpa using hfit
  obtain ⟨hmask, hmem⟩ := hmap r hr ((r.field_eq_of_fits hfit (opcodeMap_mask_family r hr)).trans hf)
  rw [r.field_eq_of_fits hfit hmask] at hmem
  exact hw hmem

theorem decodeFamily0_wf {w : Word} (hf : familyOf w = 0x0#4) : (decodeFamily0 w).wf = true := by
  unfold decodeFamily0
  split
  case h_3 =>
    refine unassigned_of_discriminant (len := 16) [0x00E0, 0x00EE] hf (by decide) ?_
    rw [extractLsb'_eq_self]
    simp_all
  all_goals rfl

theorem decodeFamily8_wf {w : Word} (hf : familyOf w = 0x8#4) : (decodeFamily8 w).wf = true := by
  unfold decodeFamily8
  split
  case h_10 =>
    refine unassigned_of_discriminant (len := 4) [0x0, 0x1, 0x2, 0x3, 0x4, 0x5, 0x6, 0x7, 0xE] hf (by decide) ?_
    change (nOf w).toNat ∉ _
    simp_all
  all_goals rfl

theorem decodeFamilyE_wf {w : Word} (hf : familyOf w = 0xE#4) : (decodeFamilyE w).wf = true := by
  unfold decodeFamilyE
  split
  case h_3 =>
    refine unassigned_of_discriminant (len := 8) [0x9E, 0xA1] hf (by decide) ?_
    change (kkOf w).toNat ∉ _
    simp_all
  all_goals rfl

theorem decodeFamilyF_wf {w : Word} (hf : familyOf w = 0xF#4) : (decodeFamilyF w).wf = true := by
  unfold decodeFamilyF
  split
  case h_10 =>
    refine unassigned_of_discriminant (len := 8) [0x07, 0x0A, 0x15, 0x18, 0x1E, 0x29, 0x33, 0x55, 0x65] hf
      (by decide) ?_
    change (kkOf w).toNat ∉ _
    simp_all
  all_goals rfl

/-- Every word decodes to a well-formed instruction (R94): a no-op carries a word that is in no row of the map. -/
theorem decodeWord_wf (w : Word) : (decodeWord w).wf = true := by
  unfold decodeWord
  split
  case h_1 h => exact decodeFamily0_wf (eq_of_toNat_eq h)
  case h_9 h => exact decodeFamily8_wf (eq_of_toNat_eq h)
  case h_15 h => exact decodeFamilyE_wf (eq_of_toNat_eq h)
  case h_16 =>
    refine decodeFamilyF_wf (eq_of_toNat_eq ?_)
    change (familyOf w).toNat = 15
    have := (familyOf w).isLt
    grind
  all_goals rfl

end Sys2Proof

namespace Sys2Proof.Machine

/-! ### The step that fetches -/

/-- Settles O1: the two bytes at PC decode to the word that the step fetches and runs. -/
theorem stepRunsTheDecodedInstruction : Obligations.StepRunsTheDecodedInstruction := by
  intro s i rest hs hd
  rw [decode_pair] at hd
  cases hd
  exact ⟨decodeWord_wf _, step_of_fetches hs⟩

/-! ### Accesses past memory -/

/-- `State.withSpan_fault` with the highest address as R63 writes it. -/
theorem State.withSpan_fault_highest {s : State} {count : Nat} (t : State) (h0 : 0 < count)
    (h : 0xFFF < s.i.toNat + count - 1) :
    s.withSpan count t = .fault (.undefinedDataAddress (s.i.toNat + count - 1)) := by
  rw [Nat.add_sub_assoc h0] at h ⊢
  exact State.withSpan_fault t h0 h

/-- Settles O33: each of the four forms is the span check on the bytes it accesses. -/
theorem accessPastMemoryIsUndefined : Obligations.AccessPastMemoryIsUndefined := by
  intro x y n s
  refine ⟨fun h => ?bcd, fun h => ⟨?store, ?load⟩, fun hn h => ?draw⟩
  case bcd => exact State.withSpan_fault_highest _ (by decide) h
  case store | load => exact State.withSpan_fault_highest _ (Nat.succ_pos _) h
  case draw => exact State.withSpan_fault_highest _ (by bv_omega) h

/-! ### A store and the next fetch -/

/-- After a store of V0 to Vx at I, the j-th byte from I on is Vj (R174). -/
theorem State.read_storeBytes_firstRegs {s : State} (hm : s.mem.wf) {x j : Nibble}
    (hspan : s.i.toNat + x.toNat ≤ 0xFFF) (hj : j.toNat ≤ x.toNat) :
    (s.storeBytes (s.firstRegs (x.toNat + 1))).mem.read (s.i.toNat + j.toNat) = s.getV j := by
  rw [State.storeBytes_eq, State.setMem_mem,
    Memory.read_writeFrom hm _ _ (by rw [State.length_firstRegs]; omega),
    dif_pos (by rw [State.length_firstRegs]; omega), State.getElem_firstRegs]
  simp

/-- A store that completes lies inside memory (R63, R174). -/
theorem exec_ldMemVx_eq_next {x : Nibble} {s t : State} (h : exec (.ldMemVx x) s = .next t) :
    t = s.storeBytes (s.firstRegs (x.toNat + 1)) ∧ s.i.toNat + x.toNat ≤ 0xFFF := by
  obtain ⟨ht, hspan⟩ := State.withSpan_eq_next h
  exact ⟨ht.symm, hspan.resolve_left (Nat.succ_ne_zero _)⟩

/-- A store that puts Vk and the register after it at PC makes them the word to fetch (R76, R65). -/
theorem State.fetchWord_storeBytes_firstRegs {s : State} (hm : s.mem.wf) {x k : Nibble}
    (hspan : s.i.toNat + x.toNat ≤ 0xFFF) (hk : k.toNat + 1 ≤ x.toNat) (hpc : s.pc.toNat = s.i.toNat + k.toNat) :
    (s.storeBytes (s.firstRegs (x.toNat + 1))).fetchWord = s.getV k ++ s.getV (k + 1#4) := by
  have hnext : (k + 1#4).toNat = k.toNat + 1 := by bv_omega
  have hhi := State.read_storeBytes_firstRegs hm hspan (j := k) (by omega)
  have hlo := State.read_storeBytes_firstRegs hm hspan (j := k + 1#4) (by omega)
  rw [← hpc] at hhi
  rw [hnext, ← Nat.add_assoc, ← hpc] at hlo
  exact congrArg₂ wordOfBytes hhi hlo

/-- With no turn listed the core's turn takes nothing off the list (R9, log 9). -/
theorem State.inTurn_of_turns_nil {s : State} (h : s.turns = []) : s.inTurn = s := by
  rw [State.inTurn, h, List.tail_nil, ← h, State.setTurns_self]

/-- Settles O35: the store leaves Vk and Vk+1 at the new PC, and they are the word of the next fetch. -/
theorem storeIsSeenByTheNextFetch : Obligations.StoreIsSeenByTheNextFetch := by
  intro s t x k hm hs hturns hi h hk hpc ht
  have ⟨_, _, hbound⟩ := hs
  have hadv : s.inTurn.advance.pc.toNat = s.dataAddr k.toNat := (State.inTurn_advance_pc_toNat hbound).trans hpc
  have hexec : exec (.ldMemVx x) s.inTurn.advance = .next t := by
    rw [← hi]
    exact (step_of_fetches hs).symm.trans h
  obtain ⟨hstore, hspan⟩ := exec_ldMemVx_eq_next hexec
  have hword : t.fetchWord = s.getV k ++ s.getV (k + 1#4) := by
    rw [hstore]
    exact State.fetchWord_storeBytes_firstRegs (s := s.inTurn.advance) hm hspan hk hadv
  have htturns : t.turns = [] := by
    rw [hstore]
    exact congrArg List.tail hturns
  rw [step_of_fetches ht, hword, State.inTurn_of_turns_nil htturns]
  rfl

/-! ### What writes memory while a program is running -/

/-- No instruction ends the run of a program (log 24). -/
theorem exec_keeps_started {i : Instr} {s t : State} (h : exec i s = .next t) : t.started = s.started :=
  exec_onlyChanges h .started (Instr.not_mayChange_environment s i (by simp))

/-- A step that fetches marks the program as running (R263, log 24). -/
theorem started_of_fetches {s t : State} (hs : s.fetches) (h : step s = .next t) : t.started = true :=
  exec_keeps_started ((step_of_fetches hs).symm.trans h)

/-- While a program is running, a turn of the core leaves it running: it executes, halts, or is idle. -/
theorem coreStep_of_started {s t : State} (hs : s.started = true) (h : coreStep s = .next t) : t.started = true := by
  rcases coreStep_cases s with ⟨-, -, hstep⟩ | ⟨-, -, hstep⟩ | ⟨-, hstep⟩ <;> rw [hstep] at h
  · exact exec_keeps_started h
  · cases h
    exact hs
  · cases h
    exact hs

/-- While a program is running, an event that is no reset leaves it running, and writes memory only if it is a
restore (R73, R263). -/
theorem deliver_of_started {e : Event} {s t : State} (hs : s.started = true) (he : ∀ p, e ≠ .reset p)
    (h : deliver e s = .next t) : t.started = true ∧ ((∀ image, e ≠ .restoreState image) → t.mem = s.mem) := by
  cases e with
  | timerTick =>
    cases h
    rcases s.tick_cases with ⟨-, ht⟩ | ⟨-, ht⟩ <;> rw [ht] <;> exact ⟨hs, fun _ => rfl⟩
  | keyDown k =>
    cases h
    rcases s.keyPress_cases k with ⟨-, hk⟩ | ⟨-, hk⟩ <;> rw [hk] <;> exact ⟨hs, fun _ => rfl⟩
  | keyUp _ | setKeyState _ _ | quit | saveState => cases h; exact ⟨hs, fun _ => rfl⟩
  | loadProgram image =>
    rcases s.loadProgram_cases image with ⟨-, hl⟩ | ⟨hn, -⟩ | ⟨hn, -⟩
    · cases hl.symm.trans h
    · cases hs.symm.trans hn
    · cases hs.symm.trans hn
  | restoreState image =>
    cases h
    obtain ⟨-, -, -, -, -, hstarted, -⟩ := s.restore_keeps image
    exact ⟨hstarted.trans hs, fun hr => absurd rfl (hr image)⟩
  | reset p => exact absurd rfl (he p)

/-- Settles O59: a fetch sets the mark; after that a turn of the core keeps it, and so does every event but a reset, of
which only a restore writes memory. -/
theorem onlyRestoreWritesMemoryWhileRunning : Obligations.OnlyRestoreWritesMemoryWhileRunning := by
  refine fun s t h => ⟨fun hs => started_of_fetches hs h, fun hs hreset => ?_⟩
  cases hmover : s.mover with
  | core =>
    rw [step_core hmover] at h
    exact ⟨coreStep_of_started (s := s.inTurn) hs h, fun _ he => nomatch he⟩
  | environment e =>
    rw [step_environment hmover] at h
    have he (p : ResetValues) : e ≠ .reset p := fun hp => hreset p (hp ▸ hmover)
    obtain ⟨ht, hmem⟩ := deliver_of_started (s := s.inTurn) hs he h
    refine ⟨ht, fun e' he' hrestore => hmem ?_⟩
    rwa [Turn.environment.inj he']

end Sys2Proof.Machine
end

section
/-! PROOFS of the family 30_encoding: the encoder and the decoder are inverse to each other, the decoder selects the row
of the opcode map that the word fits, and an unassigned word is a no-op. -/

namespace Sys2Proof

open BitVec

/-! ### The word of an instruction fits its row -/

open Laws.EncodeFitsRow in
/-- The word that the encoder writes fits the row of the instruction (R100): the laws of `EncodeFitsRow`, together. -/
theorem encode_fits_row (i : Instr) : i.row.fits (encode i) = true := by
  change Statement i
  cases i <;> simp only [cls, ret, jp, call, seImm, sneImm, seReg, ldImm, addImm, ldReg, orReg, andReg, xorReg, addReg,
    subReg, shr, subnReg, shl, sneReg, ldI, jpV0, rnd, drw, skp, sknp, ldVxDt, ldVxK, ldDtVx, ldStVx, addIVx, ldFVx,
    ldBVx, ldMemVx, ldVxMem, nop]

/-- Every instruction but the no-op has its row in the map (R100). -/
theorem row_mem_opcodeMap {i : Instr} (h : ∀ w, i ≠ .nop w) : i.row ∈ opcodeMap := by
  cases i
  case nop w => exact absurd rfl (h w)
  all_goals
    simp only [Instr.row]
    decide

/-- A word is unassigned when no row's mask gives the row's pattern (R101). -/
theorem unassigned_iff {w : Word} : unassigned w = true ↔ ∀ r ∈ opcodeMap, w &&& r.mask ≠ r.pattern := by
  simp [unassigned, OpcodeRow.fits]

/-- A word fits one row of the map at most (R100: "The rows are disjoint"). -/
theorem opcodeMap_row_unique {w : Word} {r q : OpcodeRow} (hr : r ∈ opcodeMap) (hq : q ∈ opcodeMap)
    (hwr : w &&& r.mask = r.pattern) (hwq : w &&& q.mask = q.pattern) : r = q := by
  have hsymm : Std.Symm fun r q : OpcodeRow => r.pattern &&& q.mask ≠ q.pattern &&& r.mask := ⟨fun _ _ => Ne.symm⟩
  by_contra hne
  refine opcodeMap_disjoint.forall hr hq hne ?_
  rw [← hwr, ← hwq, BitVec.and_assoc, BitVec.and_assoc, BitVec.and_comm r.mask]

/-! ### Encoding what was decoded -/

theorem formatFA_of_family {w : Word} {f : Nibble} (hf : familyOf w = f) : formatFA f (nnnOf w) = w :=
  hf ▸ formatFA_fields w

theorem formatFK_of_family {w : Word} {f : Nibble} (hf : familyOf w = f) : formatFK f (xOf w) (kkOf w) = w :=
  hf ▸ formatFK_fields w

theorem formatFX_of_discriminants {w : Word} {f : Nibble} {k : Byte} (hf : familyOf w = f) (hk : kkOf w = k) :
    formatFX f (xOf w) k = w :=
  hf ▸ hk ▸ formatFK_fields w

theorem formatFR_of_family {w : Word} {f : Nibble} (hf : familyOf w = f) :
    formatFR f (xOf w) (yOf w) (nOf w) = w :=
  hf ▸ formatFR_fields w

theorem formatFR_of_discriminants {w : Word} {f n : Nibble} (hf : familyOf w = f) (hn : nOf w = n) :
    formatFR f (xOf w) (yOf w) n = w :=
  hn ▸ formatFR_of_family hf

theorem encode_decodeFamily0 (w : Word) : encode (decodeFamily0 w) = w := by
  unfold decodeFamily0
  split
  case h_1 h | h_2 h => exact (eq_of_toNat_eq h).symm
  case h_3 => rfl

theorem encode_decodeFamily8 {w : Word} (hf : familyOf w = 0x8#4) : encode (decodeFamily8 w) = w := by
  unfold decodeFamily8
  split
  case h_10 => rfl
  all_goals exact formatFR_of_discriminants hf (eq_of_toNat_eq ‹_›)

theorem encode_decodeFamilyE {w : Word} (hf : familyOf w = 0xE#4) : encode (decodeFamilyE w) = w := by
  unfold decodeFamilyE
  split
  case h_3 => rfl
  all_goals exact formatFX_of_discriminants hf (eq_of_toNat_eq ‹_›)

theorem encode_decodeFamilyF {w : Word} (hf : familyOf w = 0xF#4) : encode (decodeFamilyF w) = w := by
  unfold decodeFamilyF
  split
  case h_10 => rfl
  all_goals exact formatFX_of_discriminants hf (eq_of_toNat_eq ‹_›)

/-- The encoder writes back the word that was decoded (R94): each family's instructions carry the fields that did not
select them (log 32). -/
theorem encode_decodeWord (w : Word) : encode (decodeWord w) = w := by
  unfold decodeWord
  split
  case h_1 => exact encode_decodeFamily0 w
  case h_9 h => exact encode_decodeFamily8 (eq_of_toNat_eq h)
  case h_15 h => exact encode_decodeFamilyE (eq_of_toNat_eq h)
  case h_16 =>
    have hlt := (familyOf w).isLt
    have hf : (familyOf w).toNat = 0xF := by grind
    exact encode_decodeFamilyF (eq_of_toNat_eq hf)
  case h_2 h | h_3 h | h_11 h | h_12 h => exact formatFA_of_family (eq_of_toNat_eq h)
  case h_4 h | h_5 h | h_7 h | h_8 h | h_13 h => exact formatFK_of_family (eq_of_toNat_eq h)
  case h_6 h | h_10 h | h_14 h => exact formatFR_of_family (eq_of_toNat_eq h)

/-- Settles O7: the decoder answers a well-formed instruction, and the encoder writes its word back. -/
theorem encodeOfDecodeIsTheWord : Obligations.EncodeOfDecodeIsTheWord :=
  fun w => ⟨decodeWord_wf w, encode_decodeWord w⟩

/-! ### The row that the decoder selects -/

/-- A decoded word fits the row of its instruction (R100). -/
theorem and_mask_row_decodeWord (w : Word) :
    w &&& (decodeWord w).row.mask = (decodeWord w).row.pattern := by
  have hfits := encode_fits_row (decodeWord w)
  rw [encode_decodeWord] at hfits
  exact beq_iff_eq.1 hfits

/-- A word that decodes to a no-op decodes to the one that carries it (R101). -/
theorem decodeWord_eq_nop_self {w v : Word} (h : decodeWord w = .nop v) : decodeWord w = .nop w := by
  have hv : encode (.nop v) = w := h ▸ encode_decodeWord w
  exact h.trans (congrArg _ hv)

/-- The no-op is what unassigned words decode to, and no others (R101). -/
theorem decodeWord_eq_nop_iff {w : Word} : decodeWord w = .nop w ↔ unassigned w = true := by
  refine ⟨fun h => ?_, fun h => ?_⟩
  · have hwf := decodeWord_wf w
    rwa [h] at hwf
  · by_contra hne
    have hrow := row_mem_opcodeMap fun v hv => hne (decodeWord_eq_nop_self hv)
    exact unassigned_iff.1 h _ hrow (and_mask_row_decodeWord w)

/-- The decoder selects a row of the map exactly when the word fits it (R100). -/
theorem row_decodeWord_eq_iff {w : Word} {r : OpcodeRow} (hr : r ∈ opcodeMap) :
    (decodeWord w).row = r ↔ w &&& r.mask = r.pattern := by
  refine ⟨fun h => h ▸ and_mask_row_decodeWord w, fun h => ?_⟩
  have hrow : (decodeWord w).row ∈ opcodeMap := row_mem_opcodeMap fun v hv =>
    unassigned_iff.1 (decodeWord_eq_nop_iff.1 (decodeWord_eq_nop_self hv)) r hr h
  exact opcodeMap_row_unique hrow hr (and_mask_row_decodeWord w) h

/-- Settles O8: the decoded word fits its instruction's row, and no two rows of the map share a word. -/
theorem decoderSelectsTheRowThatFits : Obligations.DecoderSelectsTheRowThatFits :=
  fun _ => ⟨fun _ hr => (row_decodeWord_eq_iff hr).symm, unassigned_iff.symm.trans decodeWord_eq_nop_iff.symm⟩

/-! ### Decoding what was encoded -/

/-- Settles O6: the decoder selects by the family, and within the families 0, 8, E and F by the discriminant, that the
encoder wrote, and reads the operands from the fields they were written to; a well-formed no-op carries an unassigned
word. -/
theorem decodeOfEncodeIsTheInstruction : Obligations.DecodeOfEncodeIsTheInstruction := by
  intro i hwf
  cases i with
  | nop w => exact decodeWord_eq_nop_iff.2 hwf
  | cls | ret => decide
  | ldReg _ _ | orReg _ _ | andReg _ _ | xorReg _ _ | addReg _ _ | subReg _ _ | shr _ _ | subnReg _ _ | shl _ _ =>
    simp [encode, decodeWord, decodeFamily8]
  | skp _ | sknp _ => simp [encode, decodeWord, decodeFamilyE]
  | ldVxDt _ | ldVxK _ | ldDtVx _ | ldStVx _ | addIVx _ | ldFVx _ | ldBVx _ | ldMemVx _ | ldVxMem _ =>
    simp [encode, decodeWord, decodeFamilyF]
  | _ => simp [encode, decodeWord]

/-- Settles O9: each word is evaluated. -/
theorem specWordsDecode : Obligations.SpecWordsDecode := by
  unfold Obligations.SpecWordsDecode
  decide

end Sys2Proof

namespace Sys2Proof.Machine

/-! ### The step that fetches an unassigned word -/

/-- What a fetch changes (R67): PC and draw, and of the model's own parts the turn taken and the mark `started` (logs 9,
24). -/
theorem OnlyChanges.inTurn_advance (s : State) :
    OnlyChanges (fun p => p = .pc ∨ p = .draw ∨ p = .turns ∨ p = .started) s s.inTurn.advance := by
  intro p hp
  cases p with
  | pc | draw | turns | started => exact absurd (by simp) hp
  | _ => rfl

/-- Settles O10: the no-op answers the state that the fetch left. -/
theorem unassignedWordsChangeNothing : Obligations.UnassignedWordsChangeNothing := by
  intro w s hw
  have hnop : decodeWord w = .nop w := decodeWord_eq_nop_iff.2 (unassigned_iff.2 hw)
  refine ⟨hnop, ⟨s, rfl, OnlyChanges.refl _ s⟩, fun hs hword => ?_⟩
  have hfetch : s.fetchWord = w := hword
  have hstep : step s = .next s.inTurn.advance := by
    rw [step_of_fetches hs, hfetch, hnop]
    rfl
  have ⟨_, _, hpc⟩ := hs
  exact ⟨_, hstep, State.inTurn_advance_pc_toNat hpc, rfl, rfl, rfl, OnlyChanges.inTurn_advance s⟩

end Sys2Proof.Machine
end

section
/-! PROOFS of the family 40_flow: what a call, a return and a skip answer, each said once, and from it each control
transfer with its word and its frame. -/

namespace Sys2Proof.Machine

/-! ### Targets -/

@[simp] theorem zextAddr_toNat (nnn : Addr) : (zextAddr nnn).toNat = nnn.toNat :=
  BitVec.toNat_setWidth_of_le (by decide)

@[simp] theorem zextByte_toNat (b : Byte) : (zextByte b).toNat = b.toNat :=
  BitVec.toNat_setWidth_of_le (by decide)

/-- The sum of Bnnn does not carry out of 16 bits (R128, D26). -/
theorem jpV0_target_toNat (b : Byte) (nnn : Addr) : (zextByte b + zextAddr nnn).toNat = b.toNat + nnn.toNat := by
  rw [BitVec.toNat_add, zextByte_toNat, zextAddr_toNat]
  omega

/-! ### The stack -/

/-- SP moved up by one, as a number (R123). -/
theorem State.sp_succ_toNat (s : State) : (s.sp + 1#8).toNat = (s.sp.toNat + 1) % 256 := BitVec.toNat_add ..

/-- SP moved down by one, as a number (R121). -/
theorem State.sp_pred_toNat (s : State) : (s.sp - 1#8).toNat = (s.sp.toNat + 255) % 256 := by
  rw [BitVec.toNat_sub, Nat.add_comm]
  rfl

/-- The number of the entry that an index up to 15 selects is the index (R78). -/
theorem toNat_setWidth_four_of_le {index : Byte} (h : index.toNat ≤ 15) : (index.setWidth 4).toNat = index.toNat := by
  rw [BitVec.toNat_setWidth]
  omega

/-- The state that a call with its new SP in range leaves (R123). -/
def State.called (s : State) (nnn : Addr) : State :=
  ((s.setSp (s.sp + 1#8)).setStack ((s.sp + 1#8).setWidth 4) s.pc).setPc (zextAddr nnn)

/-- The state that a return with SP in range leaves (R121). -/
def State.returned (s : State) : State := (s.setPc (s.getStack (s.sp.setWidth 4))).setSp (s.sp - 1#8)

/-- A call completes when its new SP selects an entry (R123). -/
theorem exec_call_of_le {s : State} (nnn : Addr) (h : (s.sp.toNat + 1) % 256 ≤ 15) :
    exec (.call nnn) s = .next (s.called nnn) := by
  rw [← State.sp_succ_toNat] at h
  show execCall nnn s = _
  rw [execCall, stackSlot_chosen, if_pos h]
  rfl

/-- A call is the marker when its new SP selects no entry (R78, R123, D3). -/
theorem exec_call_of_gt {s : State} (nnn : Addr) (h : 15 < (s.sp.toNat + 1) % 256) :
    exec (.call nnn) s = .fault (.undefinedStackIndex (s.sp + 1#8)) := by
  rw [← State.sp_succ_toNat] at h
  show execCall nnn s = _
  rw [execCall, stackSlot_chosen, if_neg (by omega)]

/-- A return completes when SP selects an entry (R121). -/
theorem exec_ret_of_le {s : State} (h : s.sp.toNat ≤ 15) : exec .ret s = .next s.returned := by
  show execRet s = _
  rw [execRet, stackSlot_chosen, if_pos h]
  rfl

/-- A return is the marker when SP selects no entry (R78, R121, D3). -/
theorem exec_ret_of_gt {s : State} (h : 15 < s.sp.toNat) : exec .ret s = .fault (.undefinedStackIndex s.sp) := by
  show execRet s = _
  rw [execRet, stackSlot_chosen, if_neg (by omega)]

/-- A call changes SP, the entry that the new SP selects, and PC. -/
theorem State.called_onlyChanges (s : State) (nnn : Addr) :
    OnlyChanges (fun p => p = .sp ∨ p = .stack ((s.sp + 1#8).setWidth 4) ∨ p = .pc) s (s.called nnn) :=
  (((OnlyChanges.setSp s _).mono fun _ => .inl).trans
    ((OnlyChanges.setStack _ _ _).mono fun _ hp => .inr (.inl hp))).trans
    ((OnlyChanges.setPc _ _).mono fun _ hp => .inr (.inr hp))

/-- The entry that the new SP selects holds the return address (R123). -/
theorem State.called_getStack (s : State) (nnn : Addr) :
    (s.called nnn).getStack ((s.sp + 1#8).setWidth 4) = s.pc :=
  (State.getStack_setStack _ _ _ _).trans (if_pos rfl)

/-- A return changes SP and PC. -/
theorem State.returned_onlyChanges (s : State) : OnlyChanges (fun p => p = .sp ∨ p = .pc) s s.returned :=
  ((OnlyChanges.setPc s _).mono fun _ => .inr).trans ((OnlyChanges.setSp _ _).mono fun _ => .inl)

/-- Settles O13: the new SP decides whether an entry is selected, and the entry keeps what the call pushed. -/
theorem callPushesTheReturnAddress : Obligations.CallPushesTheReturnAddress := by
  intro nnn s
  refine ⟨decodeOfEncodeIsTheInstruction (.call nnn) rfl, exec_call_of_gt nnn, fun h => ?_⟩
  have hk : (s.sp + 1#8).toNat ≤ 15 := by rwa [State.sp_succ_toNat]
  exact ⟨s.called nnn, (s.sp + 1#8).setWidth 4, exec_call_of_le nnn h, s.sp_succ_toNat, toNat_setWidth_four_of_le hk,
    s.called_getStack nnn, zextAddr_toNat nnn, s.called_onlyChanges nnn⟩

/-- Settles O14: SP decides whether an entry is selected, and no entry is written. -/
theorem returnPopsTheReturnAddress : Obligations.ReturnPopsTheReturnAddress := by
  refine ⟨decodeOfEncodeIsTheInstruction .ret rfl, fun s => ⟨exec_ret_of_gt, fun h => ?_⟩⟩
  exact ⟨s.returned, s.sp.setWidth 4, exec_ret_of_le h, toNat_setWidth_four_of_le h, rfl, s.sp_pred_toNat,
    s.returned_onlyChanges⟩

/-- Settles O15: the return finds SP where the call left it, so that it reads the entry the call pushed, and moves SP
back. -/
theorem returnUndoesCall : Obligations.ReturnUndoesCall := by
  intro nnn s pc h
  have hsp : ((s.called nnn).setPc pc).sp.toNat ≤ 15 := s.sp_succ_toNat.trans_le h
  exact ⟨s.called nnn, ((s.called nnn).setPc pc).returned, exec_call_of_le nnn h, exec_ret_of_le hsp,
    s.called_getStack nnn, BitVec.add_sub_cancel s.sp 1#8⟩

/-! ### Jumps -/

/-- Settles O11: a jump writes PC only, and its target is not truncated. -/
theorem jumpSetsPc : Obligations.JumpSetsPc := fun nnn s =>
  ⟨decodeOfEncodeIsTheInstruction (.jp nnn) rfl, s.setPc (zextAddr nnn), rfl, zextAddr_toNat nnn,
    OnlyChanges.setPc s _⟩

/-- Settles O12: a jump writes PC only, and the sum of its target does not wrap. -/
theorem jumpWithOffsetAddsV0 : Obligations.JumpWithOffsetAddsV0 := fun nnn s =>
  ⟨decodeOfEncodeIsTheInstruction (.jpV0 nnn) rfl, s.setPc (zextByte (s.getV 0#4) + zextAddr nnn), rfl,
    jpV0_target_toNat _ nnn, OnlyChanges.setPc s _⟩

/-! ### Skips -/

/-- PC after the skip of an SE (R124, R126). -/
theorem State.skipIf_beq_pc (s : State) (a b : Byte) :
    (s.skipIf (a == b)).pc = if a = b then s.pc + 2#16 else s.pc := by
  simp [State.skipIf_eq]

/-- PC after the skip of an SNE (R125, R127). -/
theorem State.skipIf_bne_pc (s : State) (a b : Byte) :
    (s.skipIf (a != b)).pc = if a = b then s.pc else s.pc + 2#16 := by
  simp [State.skipIf_eq]

/-- Exactly one of SE and SNE on the same operands moves PC on (R125). -/
theorem State.skipIf_bne_pc_eq_iff (s : State) (a b : Byte) :
    (s.skipIf (a != b)).pc = s.pc ↔ (s.skipIf (a == b)).pc ≠ s.pc := by
  have hmoves : s.pc + 2#16 ≠ s.pc := by bv_omega
  rw [State.skipIf_bne_pc, State.skipIf_beq_pc]
  by_cases hab : a = b
  · simp only [if_pos hab, ne_eq, hmoves, not_false_eq_true]
  · simp only [if_neg hab, ne_eq, hmoves, not_true_eq_false]

/-- Settles O16: SE is a skip on equality. -/
theorem skipIfEqualImmediate : Obligations.SkipIfEqualImmediate := fun x kk s =>
  ⟨decodeOfEncodeIsTheInstruction (.seImm x kk) rfl, s.skipIf (s.getV x == kk), rfl, s.skipIf_beq_pc _ kk,
    OnlyChanges.skipIf s _⟩

/-- Settles O17: SNE is a skip on inequality, the complement of SE. -/
theorem skipIfNotEqualImmediate : Obligations.SkipIfNotEqualImmediate := fun x kk s =>
  ⟨decodeOfEncodeIsTheInstruction (.sneImm x kk) rfl, s.skipIf (s.getV x != kk), s.skipIf (s.getV x == kk), rfl,
    s.skipIf_bne_pc _ kk, OnlyChanges.skipIf s _, rfl, s.skipIf_bne_pc_eq_iff _ kk⟩

/-- Settles O18: the register forms skip as the immediate ones do, and the low nibble is not examined. -/
theorem skipsOnRegisters : Obligations.SkipsOnRegisters := fun x y low s =>
  ⟨decodeOfEncodeIsTheInstruction (.seReg x y low) rfl, decodeOfEncodeIsTheInstruction (.sneReg x y low) rfl,
    ⟨s.skipIf (s.getV x == s.getV y), rfl, s.skipIf_beq_pc _ _, OnlyChanges.skipIf s _⟩,
    ⟨s.skipIf (s.getV x != s.getV y), rfl, s.skipIf_bne_pc _ _, OnlyChanges.skipIf s _⟩⟩

end Sys2Proof.Machine
end

section
/-! PROOFS of the family 41_alu: what a register reads after a result and after a result with its flag, the flags and the
results as numbers, the sample of the random port; from them each instruction with its word and its frame. -/

namespace Sys2Proof.Machine

/-! ### Registers after a write -/

/-- The register just written reads the value written (R20). -/
theorem State.getV_setV_same (s : State) (x : Nibble) (b : Byte) : (s.setV x b).getV x = b :=
  (s.getV_setV x b x).trans (if_pos rfl)

/-- A destination other than VF keeps its result when the flag is written (R153). -/
theorem State.getV_setWithFlag_result (s : State) {x : Nibble} (result flag : Byte) (hx : x ≠ 15#4) :
    (s.setWithFlag x result flag).getV x = result :=
  (s.getV_setWithFlag x result flag x).trans ((if_neg hx).trans (if_pos rfl))

/-- VF reads the flag, whatever the destination (R153, D9). -/
theorem State.getV_setWithFlag_flag (s : State) (x : Nibble) (result flag : Byte) :
    (s.setWithFlag x result flag).getV 15#4 = flag :=
  (s.getV_setWithFlag x result flag 15#4).trans (if_pos rfl)

/-! ### Flags as numbers -/

theorem flagByte_toNat (b : Bool) : (flagByte b).toNat = b.toNat := by
  cases b <;> rfl

/-- VF after a comparison is 1 when it holds, else 0. -/
theorem flagByte_decide_toNat (p : Prop) [Decidable p] : (flagByte (decide p)).toNat = if p then 1 else 0 := by
  rw [flagByte_toNat, Bool.toNat, Bool.cond_decide]

/-- The bit moved out on the right is the parity (R148). -/
theorem shiftedOutRight_toNat (a : Byte) : (shiftedOutRight a).toNat = a.toNat % 2 := by
  rw [shiftedOutRight, flagByte_toNat, BitVec.getLsbD, Nat.toNat_testBit, pow_zero, Nat.div_one]

/-- The bit moved out on the left is the one worth 128 (R150). -/
theorem shiftedOutLeft_toNat (a : Byte) : (shiftedOutLeft a).toNat = a.toNat / 128 := by
  have ha : a.toNat < 256 := a.isLt
  rw [shiftedOutLeft, flagByte_toNat, BitVec.getLsbD, Nat.toNat_testBit]
  omega

/-! ### Results as numbers -/

/-- The difference of two bytes wraps modulo 256 (R147, R149). -/
theorem toNat_sub_byte (a b : Byte) : ((a - b).toNat : Int) = ((a.toNat : Int) - b.toNat) % 256 := by
  have hb : b.toNat < 256 := b.isLt
  rw [BitVec.toNat_sub]
  omega

/-- A shift right by one halves (R148). -/
theorem toNat_ushiftRight_one (a : Byte) : (a >>> 1).toNat = a.toNat / 2 := by
  rw [BitVec.toNat_ushiftRight, Nat.shiftRight_one]

/-- A shift left by one doubles modulo 256 (R150). -/
theorem toNat_shiftLeft_one (a : Byte) : (a <<< 1).toNat = 2 * a.toNat % 256 := by
  rw [BitVec.toNat_shiftLeft, Nat.shiftLeft_eq, Nat.mul_comm]

/-! ### Instructions without a flag -/

/-- Settles O19: the destination reads the immediate. -/
theorem loadImmediate : Obligations.LoadImmediate := fun x kk s =>
  ⟨decodeOfEncodeIsTheInstruction (.ldImm x kk) rfl, s.setV x kk, rfl, s.getV_setV_same x kk, OnlyChanges.setV s x _⟩

/-- Settles O20: the sum of two bytes wraps, and no other register is written. -/
theorem addImmediateWrapsWithoutFlag : Obligations.AddImmediateWrapsWithoutFlag := by
  intro x kk s
  refine ⟨decodeOfEncodeIsTheInstruction (.addImm x kk) rfl, s.setV x (s.getV x + kk), rfl, ?_, OnlyChanges.setV s x _⟩
  rw [State.getV_setV_same, BitVec.toNat_add]

/-- Settles O21: each is a write of its destination alone, and the bitwise operations act on each bit. -/
theorem copyAndBitwiseOperations : Obligations.CopyAndBitwiseOperations := by
  intro x y s
  refine ⟨⟨decodeOfEncodeIsTheInstruction (.ldReg x y) rfl, _, rfl, s.getV_setV_same x _, OnlyChanges.setV s x _⟩,
    ⟨decodeOfEncodeIsTheInstruction (.orReg x y) rfl, _, rfl, fun j => ?_, OnlyChanges.setV s x _⟩,
    ⟨decodeOfEncodeIsTheInstruction (.andReg x y) rfl, _, rfl, fun j => ?_, OnlyChanges.setV s x _⟩,
    ⟨decodeOfEncodeIsTheInstruction (.xorReg x y) rfl, _, rfl, fun j => ?_, OnlyChanges.setV s x _⟩⟩
  · rw [State.getV_setV_same, BitVec.getLsbD_or]
  · rw [State.getV_setV_same, BitVec.getLsbD_and]
  · rw [State.getV_setV_same, BitVec.getLsbD_xor]

/-! ### Instructions with a flag -/

/-- Settles O22: the flag is written last and compares the sum before it wraps. -/
theorem addSetsCarry : Obligations.AddSetsCarry := by
  intro x y s
  refine ⟨decodeOfEncodeIsTheInstruction (.addReg x y) rfl, _, rfl, fun hx => ?_, ?_, OnlyChanges.setWithFlag s x _ _⟩
  · rw [State.getV_setWithFlag_result _ _ _ hx, BitVec.toNat_add]
  · rw [State.getV_setWithFlag_flag]
    exact flagByte_decide_toNat _

/-- What SUB and SUBN leave (R147, R149): the wrapped difference in a destination other than VF, and in VF the strict
comparison of its operands. -/
theorem State.setWithFlag_sub (s : State) (x : Nibble) (a b : Byte) :
    (x ≠ 15#4 → (((s.setWithFlag x (a - b) (noBorrowFlag a b)).getV x).toNat : Int) = ((a.toNat : Int) - b.toNat) % 256) ∧
    ((s.setWithFlag x (a - b) (noBorrowFlag a b)).getV 15#4).toNat = (if b.toNat < a.toNat then 1 else 0) ∧
    OnlyChanges (fun p => p = .v x ∨ p = .v 15#4) s (s.setWithFlag x (a - b) (noBorrowFlag a b)) := by
  refine ⟨fun hx => ?_, ?_, OnlyChanges.setWithFlag s x _ _⟩
  · rw [State.getV_setWithFlag_result _ _ _ hx, toNat_sub_byte]
  · rw [State.getV_setWithFlag_flag]
    exact flagByte_decide_toNat _

/-- Settles O23: SUB and SUBN are one subtraction with its operands exchanged. -/
theorem subtractionsSetNoBorrow : Obligations.SubtractionsSetNoBorrow := fun x y s =>
  ⟨decodeOfEncodeIsTheInstruction (.subReg x y) rfl, decodeOfEncodeIsTheInstruction (.subnReg x y) rfl,
    ⟨_, rfl, s.setWithFlag_sub x (s.getV x) (s.getV y)⟩, ⟨_, rfl, s.setWithFlag_sub x (s.getV y) (s.getV x)⟩⟩

/-- Settles O24: the flag is the bit that left, taken from the operand, and y is not read. -/
theorem shiftsSetTheBitMovedOut : Obligations.ShiftsSetTheBitMovedOut := by
  intro x y s
  refine ⟨decodeOfEncodeIsTheInstruction (.shr x y) rfl, decodeOfEncodeIsTheInstruction (.shl x y) rfl,
    ⟨_, rfl, fun hx => ?_, ?_, OnlyChanges.setWithFlag s x _ _⟩,
    ⟨_, rfl, fun hx => ?_, ?_, OnlyChanges.setWithFlag s x _ _⟩⟩
  · rw [State.getV_setWithFlag_result _ _ _ hx, toNat_ushiftRight_one]
  · rw [State.getV_setWithFlag_flag, shiftedOutRight_toNat]
  · rw [State.getV_setWithFlag_result _ _ _ hx, toNat_shiftLeft_one]
  · rw [State.getV_setWithFlag_flag, shiftedOutLeft_toNat]

/-! ### The random byte -/

/-- A byte queued at the random port is the sample, and leaves the queue (R151). -/
theorem State.drawByte_of_cons {s : State} {b : Byte} {bs : List Byte} (h : s.randIn = b :: bs) :
    s.drawByte = (b, s.setRandIn bs) := by
  rw [State.drawByte, h]

/-- With no byte queued the sample is the free value of this execution (R151, D19, log 7). -/
theorem State.drawByte_of_nil {s : State} (h : s.randIn = []) :
    s.drawByte = (Config.freeByte s.freeCount, s.bumpFree) := by
  rw [State.drawByte, h]

/-- A masked byte has no bit outside the mask (R151). -/
theorem and_mask_and_not_mask (b mask : Byte) : b &&& mask &&& ~~~mask = 0#8 := by
  rw [BitVec.and_assoc, BitVec.and_not_self]
  exact BitVec.and_zero

/-- Settles O25: the sample is the queued byte or else the free value, and is masked before it is written. -/
theorem randomByteIsMasked : Obligations.RandomByteIsMasked := by
  intro x kk s
  refine ⟨decodeOfEncodeIsTheInstruction (.rnd x kk) rfl, s.drawByte.2.setV x (s.drawByte.1 &&& kk), rfl, ?_,
    fun r rs hr => ?_, fun hr => ?_, exec_onlyChanges (i := .rnd x kk) rfl⟩
  · rw [State.getV_setV_same, and_mask_and_not_mask]
  · rw [State.drawByte_of_cons hr]
    exact ⟨State.getV_setV_same _ _ _, rfl, rfl⟩
  · rw [State.drawByte_of_nil hr]
    exact ⟨State.getV_setV_same _ _ _, hr, Nat.lt_succ_self _⟩

end Sys2Proof.Machine
end

section
/-! PROOFS of the family 42_index_memory: what I takes as a number, what the bytes stored at I and the registers loaded
from I read, and the span inside which each access completes; from them each instruction with its word and its frame. -/

namespace Sys2Proof.Machine

/-! ### The index register -/

/-- I after ADD I, Vx: the sum wraps at 16 bits (R171, D18). -/
theorem add_zextByte_toNat (w : Word) (b : Byte) : (w + zextByte b).toNat = (w.toNat + b.toNat) % 65536 := by
  rw [BitVec.toNat_add, zextByte_toNat]

/-- I after LD F, Vx: five times a byte does not wrap (R172, D36). -/
theorem five_mul_zextByte_toNat (b : Byte) : (5#16 * zextByte b).toNat = 5 * b.toNat := by
  have hb : b.toNat < 256 := b.isLt
  rw [BitVec.toNat_mul, zextByte_toNat, BitVec.toNat_ofNat]
  omega

/-- Settles O27: LD I writes I only, and the address is extended by zero. -/
theorem loadIndex : Obligations.LoadIndex := fun nnn s =>
  ⟨decodeOfEncodeIsTheInstruction (.ldI nnn) rfl, s.setI (zextAddr nnn), rfl, zextAddr_toNat nnn, OnlyChanges.setI s _⟩

/-- Settles O28: both write I only, so that neither leaves a flag. -/
theorem addToIndexAndGlyphAddress : Obligations.AddToIndexAndGlyphAddress := fun x s =>
  ⟨decodeOfEncodeIsTheInstruction (.addIVx x) rfl, decodeOfEncodeIsTheInstruction (.ldFVx x) rfl,
    ⟨s.setI (s.i + zextByte (s.getV x)), rfl, add_zextByte_toNat _ _, OnlyChanges.setI s _⟩,
    ⟨s.setI (5#16 * zextByte (s.getV x)), rfl, five_mul_zextByte_toNat _, OnlyChanges.setI s _⟩⟩

/-! ### Stores at I -/

/-- The k-th byte from I on reads the k-th byte stored (R62, R176). -/
theorem State.read_storeBytes {s : State} (hm : s.mem.wf) {bs : List Byte} (hb : s.i.toNat + bs.length ≤ 4096) {k : Nat}
    (hk : k < bs.length) : (s.storeBytes bs).mem.read (s.i.toNat + k) = bs[k] := by
  rw [State.storeBytes_eq, State.setMem_mem, Memory.read_writeFrom hm _ _ hb, dif_pos (by omega)]
  simp only [Nat.add_sub_cancel_left]

@[simp] theorem length_bcdDigits (b : Byte) : (bcdDigits b).length = 3 := rfl

/-- The three digits as numbers: none is truncated to a byte (R173, D16). -/
theorem bcdDigits_map_toNat (b : Byte) :
    (bcdDigits b).map BitVec.toNat = [b.toNat / 100, b.toNat / 10 % 10, b.toNat % 10] := by
  have hb : b.toNat < 256 := b.isLt
  simp only [bcdDigits, List.map_cons, List.map_nil, BitVec.toNat_ofNat, List.cons.injEq, and_true]
  omega

/-- After a store of the digits, the k-th byte from I on is the k-th of them as a number (R173). -/
theorem State.read_storeBytes_bcdDigits_toNat {s : State} (hm : s.mem.wf) (hspan : s.i.toNat + 2 ≤ 0xFFF) (b : Byte)
    {k : Nat} (hk : k < 3) : ((s.storeBytes (bcdDigits b)).mem.read (s.i.toNat + k)).toNat =
      [b.toNat / 100, b.toNat / 10 % 10, b.toNat % 10][k] := by
  rw [State.read_storeBytes hm (by rw [length_bcdDigits]; omega) (by rwa [length_bcdDigits])]
  simp only [← bcdDigits_map_toNat]
  exact (List.getElem_map _).symm

/-- The digits are stored when their span lies inside memory (R63, R173). -/
theorem exec_ldBVx_of_le {x : Nibble} {s : State} (h : s.i.toNat + 2 ≤ 0xFFF) :
    exec (.ldBVx x) s = .next (s.storeBytes (bcdDigits (s.getV x))) :=
  State.withSpan_next _ (.inr h)

/-- V0 to Vx are stored when their span lies inside memory (R63, R174). -/
theorem exec_ldMemVx_of_le {x : Nibble} {s : State} (h : s.i.toNat + x.toNat ≤ 0xFFF) :
    exec (.ldMemVx x) s = .next (s.storeBytes (s.firstRegs (x.toNat + 1))) :=
  State.withSpan_next _ (.inr h)

/-- Settles O29: the three digits are the bytes that the store leaves at I. -/
theorem storeBcd : Obligations.StoreBcd := by
  refine fun x s => ⟨decodeOfEncodeIsTheInstruction (.ldBVx x) rfl, fun hm hspan => ?_⟩
  have hexec := exec_ldBVx_of_le (x := x) hspan
  have hread {k : Nat} (hk : k < 3) := State.read_storeBytes_bcdDigits_toNat hm hspan (s.getV x) hk
  exact ⟨_, hexec, hread (k := 0) (by decide), hread (k := 1) (by decide), hread (k := 2) (by decide),
    exec_onlyChanges hexec⟩

/-- Settles O30: the r-th byte that the store leaves at I is Vr. -/
theorem storeRegisters : Obligations.StoreRegisters := by
  refine fun x s => ⟨decodeOfEncodeIsTheInstruction (.ldMemVx x) rfl, fun hm hspan => ?_⟩
  have hexec := exec_ldMemVx_of_le hspan
  exact ⟨_, hexec, fun r hr => State.read_storeBytes_firstRegs hm hspan hr,
    (exec_onlyChanges hexec).mono fun _ ⟨k, hk, hp⟩ => ⟨k, Nat.le_of_lt_succ hk, hp⟩⟩

/-! ### Loads from I -/

/-- After a load of V0 to Vx, these registers read the bytes from I on, and the others what they held (R175). -/
theorem State.getV_loadRegsFrom_loadBytes (s : State) (x r : Nibble) :
    (s.loadRegsFrom 0 (s.loadBytes (x.toNat + 1))).getV r =
      if r.toNat ≤ x.toNat then s.mem.read (s.dataAddr r.toNat) else s.getV r := by
  have hlen : (s.loadBytes (x.toNat + 1)).length = x.toNat + 1 := s.length_loadBytes _
  rw [State.getV_loadRegsFrom s 0 _ (by omega)]
  by_cases hr : r.toNat ≤ x.toNat
  · rw [if_pos hr, dif_pos (by omega), State.getElem_loadBytes, Nat.sub_zero]
  · rw [if_neg hr, dif_neg (by omega)]

/-- V0 to Vx are loaded when their span lies inside memory (R63, R175). -/
theorem exec_ldVxMem_of_le {x : Nibble} {s : State} (h : s.i.toNat + x.toNat ≤ 0xFFF) :
    exec (.ldVxMem x) s = .next (s.loadRegsFrom 0 (s.loadBytes (x.toNat + 1))) :=
  State.withSpan_next _ (.inr h)

/-- Settles O31: the r-th byte from I on goes to Vr. -/
theorem loadRegisters : Obligations.LoadRegisters := by
  refine fun x s => ⟨decodeOfEncodeIsTheInstruction (.ldVxMem x) rfl, fun hspan => ?_⟩
  have hexec := exec_ldVxMem_of_le hspan
  exact ⟨_, hexec, fun r hr => (s.getV_loadRegsFrom_loadBytes x r).trans (if_pos hr), exec_onlyChanges hexec⟩

/-- Settles O32: the store leaves I where it was, so that the load has the same span and reads the bytes just stored. -/
theorem loadUndoesStore : Obligations.LoadUndoesStore := by
  intro x s t v hm h
  obtain ⟨rfl, hspan⟩ := exec_ldMemVx_eq_next h
  refine ⟨_, exec_ldVxMem_of_le hspan, fun r => ⟨fun hr => ?stored, fun hr => ?above⟩⟩
  case stored =>
    rw [State.getV_loadRegsFrom_loadBytes, if_pos hr]
    exact State.read_storeBytes_firstRegs hm hspan hr
  case above =>
    rw [State.getV_loadRegsFrom_loadBytes, if_neg (by omega)]
    rfl

end Sys2Proof.Machine
end

section
/-! PROOFS of the family 43_display: the state that a draw leaves, and what its cells and its VF read in terms of the
closed form of the sprite; from them each display instruction with its word and its frame. -/

namespace Sys2Proof.Machine

/-- Settles O36: the screen written is the cleared one. -/
theorem clearScreen : Obligations.ClearScreen :=
  ⟨decodeOfEncodeIsTheInstruction .cls rfl, fun s =>
    ⟨s.setFb Framebuffer.cleared, rfl, Framebuffer.pixel_cleared, OnlyChanges.setFb s _⟩⟩

/-! ### The sprite in closed form -/

/-- The k-th byte loaded, whatever is read past the end (R176). -/
theorem State.getD_loadBytes (s : State) {count k : Nat} (h : k < count) (b : Byte) :
    (s.loadBytes count).getD k b = s.mem.read (s.dataAddr k) := by
  have hk : k < (s.loadBytes count).length := by rwa [State.length_loadBytes]
  rw [← List.getElem_eq_getD (h := hk), State.getElem_loadBytes]

/-- The cells that the n bytes at I cover from (Vx, Vy) on are the pixels of the sprite (R192, R193). -/
theorem coveredByRows_loadBytes (s : State) (x y n : Nibble) (px py : Nat) :
    coveredByRows (s.getV x).toNat (s.getV y).toNat (s.loadBytes n.toNat) px py = spritePixel s x y n px py := by
  unfold coveredByRows spritePixel
  rw [State.length_loadBytes]
  by_cases hrow : (s.getV y).toNat ≤ py ∧ py < (s.getV y).toNat + n.toNat
  · rw [State.getD_loadBytes s (by omega)]
  · simp only [hrow, and_false, decide_false, Bool.false_and]

/-- Drawing turns the cells of the sprite's pixels (R192). -/
theorem State.drawSprite_pixel (s : State) (x y n : Nibble) (px py : Nat) :
    (s.drawSprite x y n).1.pixel px py = (s.fb.pixel px py ^^ spritePixel s x y n px py) := by
  rw [← coveredByRows_loadBytes]
  exact (drawRows_spec _ _ _ s.fb false).1 px py

/-- Drawing reports a collision when a set cell meets a pixel of the sprite (R192, R193). -/
theorem State.drawSprite_collides_iff (s : State) (x y n : Nibble) : (s.drawSprite x y n).2 = true ↔
    ∃ px py, s.fb.pixel px py = true ∧ spritePixel s x y n px py = true := by
  simp only [← coveredByRows_loadBytes]
  exact (drawRows_spec _ _ _ s.fb false).2.trans (or_iff_right Bool.false_ne_true)

/-! ### The state that a draw leaves -/

/-- The state that a draw whose bytes lie in memory leaves (R192). -/
def State.drawn (s : State) (x y n : Nibble) : State :=
  ((s.setV 0xF#4 (flagByte (s.drawSprite x y n).2)).setFb (s.drawSprite x y n).1).setDraw true

/-- A draw completes when it has no row (D37) or its bytes lie inside memory (R63, R192). -/
theorem exec_drw_of_le {x y n : Nibble} {s : State} (h : n = 0#4 ∨ s.i.toNat + n.toNat - 1 ≤ 0xFFF) :
    exec (.drw x y n) s = .next (s.drawn x y n) :=
  State.withSpan_next _ (h.imp_left (congrArg BitVec.toNat))

theorem exec_drw_eq_next {x y n : Nibble} {s t : State} (h : exec (.drw x y n) s = .next t) : t = s.drawn x y n :=
  (State.withSpan_eq_next h).1.symm

theorem State.drawn_pixel (s : State) (x y n : Nibble) (px py : Nat) :
    (s.drawn x y n).fb.pixel px py = (s.fb.pixel px py ^^ spritePixel s x y n px py) :=
  s.drawSprite_pixel x y n px py

/-- A draw keeps every register but VF (R192). -/
theorem State.drawn_getV_of_ne (s : State) (x y n : Nibble) {r : Nibble} (hr : r ≠ 15#4) :
    (s.drawn x y n).getV r = s.getV r :=
  (s.getV_setV _ _ r).trans (if_neg hr)

/-- VF after a draw is the collision flag, whatever the coordinates' registers (R192, D10). -/
theorem State.drawn_getV_flag (s : State) (x y n : Nibble) :
    (s.drawn x y n).getV 15#4 = flagByte (s.drawSprite x y n).2 :=
  s.getV_setV_same 15#4 _

theorem flagByte_cases (b : Bool) : flagByte b = 1#8 ∨ flagByte b = 0#8 := by
  cases b
  · exact .inr rfl
  · exact .inl rfl

theorem flagByte_eq_one_iff (b : Bool) : flagByte b = 1#8 ↔ b = true := by
  cases b <;> decide

/-- VF after a draw is 1 when a set cell met a pixel of the sprite (R192, R193). -/
theorem State.drawn_getV_flag_eq_one_iff (s : State) (x y n : Nibble) : (s.drawn x y n).getV 15#4 = 1#8 ↔
    ∃ px py, s.fb.pixel px py = true ∧ spritePixel s x y n px py = true := by
  rw [State.drawn_getV_flag, flagByte_eq_one_iff, State.drawSprite_collides_iff]

/-- The exact frame of DRW: of the cells only those change that the sprite's pixels turn (R192). -/
theorem exec_drw_onlyChanges {x y n : Nibble} {s t : State} (h : exec (.drw x y n) s = .next t) :
    OnlyChanges (fun p => p = .v 15#4 ∨ p = .draw ∨ ∃ px py, p = .pixel px py ∧ spritePixel s x y n px py = true)
      s t := by
  intro p hp
  by_cases hpixel : ∃ px py, p = .pixel px py
  · obtain ⟨px, py, rfl⟩ := hpixel
    obtain rfl := exec_drw_eq_next h
    have hoff : spritePixel s x y n px py = false :=
      Bool.eq_false_of_not_eq_true fun hon => hp (.inr (.inr ⟨px, py, rfl, hon⟩))
    exact (s.drawn_pixel x y n px py).trans (by rw [hoff, Bool.xor_false])
  · exact exec_onlyChanges h p fun hmay => hp (hmay.imp_right (.imp_right fun hq => absurd hq hpixel))

/-- Settles O37: each cell, VF and the frame of the state that the draw leaves. -/
theorem drawSpriteExclusiveOr : Obligations.DrawSpriteExclusiveOr := by
  refine fun x y n s => ⟨decodeOfEncodeIsTheInstruction (.drw x y n) rfl, fun h => ?_⟩
  have hexec := exec_drw_of_le (x := x) (y := y) h
  have hflag : (s.drawn x y n).getV 15#4 = 1#8 ∨ (s.drawn x y n).getV 15#4 = 0#8 := by
    rw [State.drawn_getV_flag]
    exact flagByte_cases _
  exact ⟨_, hexec, s.drawn_pixel x y n, hflag, s.drawn_getV_flag_eq_one_iff x y n, rfl, exec_drw_onlyChanges hexec⟩

/-! ### The same sprite twice -/

/-- Where the place is not held in VF, a draw leaves the sprite to draw as it was (R192 corner case b). -/
theorem spritePixel_drawn (s : State) {x y : Nibble} (n : Nibble) (hx : x ≠ 15#4) (hy : y ≠ 15#4) :
    spritePixel (s.drawn x y n) x y n = spritePixel s x y n := by
  funext px py
  unfold spritePixel
  rw [State.drawn_getV_of_ne s x y n hx, State.drawn_getV_of_ne s x y n hy]
  rfl

/-- Settles O38: both draws turn the same cells, and on a clear screen the second meets what the first has set. -/
theorem drawingTwiceRestoresTheScreen : Obligations.DrawingTwiceRestoresTheScreen := by
  intro x y n s t u hx hy hst htu
  obtain rfl := exec_drw_eq_next hst
  obtain rfl := exec_drw_eq_next htu
  have hsame := spritePixel_drawn s n hx hy
  refine ⟨Framebuffer.ext_of_pixel fun px py => ?restored, fun hclear => ?collides⟩
  case restored => rw [State.drawn_pixel, hsame, State.drawn_pixel, Bool.xor_assoc, Bool.xor_self, Bool.xor_false]
  case collides =>
    rw [State.drawn_getV_flag_eq_one_iff, hsame]
    simp only [State.drawn_pixel, hclear, Bool.false_xor, and_self]

end Sys2Proof.Machine
end

section
/-! PROOFS of the family 44_input_timers: what a key query answers for a code of the keypad and for a code above it, and
what a skip on its answer leaves in PC; from them each keypad and timer instruction with its word and its frame. -/

namespace Sys2Proof.Machine

/-! ### The key query -/

/-- A code of the keypad is answered by the level of its key, and uses no free value (R200). -/
theorem State.queryKey_of_key (s : State) (k : Nibble) : s.queryKey (k.setWidth 8) = (s.getKey k, s) := by
  have hk : (k.setWidth 8).toNat ≤ 15 := by bv_omega
  have hcode : (k.setWidth 8).setWidth 4 = k := BitVec.setWidth_setWidth_of_le k (by decide)
  rw [State.queryKey, if_pos hk, hcode]

/-- A code above the keypad is answered by a free value, which is used up (R200, D11, log 8). -/
theorem State.queryKey_of_gt {s : State} {code : Byte} (h : 15 < code.toNat) :
    s.queryKey code = (Config.freeKey s.freeCount, s.bumpFree) :=
  if_neg (Nat.not_le.mpr h)

/-! ### The skip on its answer -/

/-- PC after the skip of an SKP (R200). -/
theorem State.skipIf_pc (s : State) (c : Bool) : (s.skipIf c).pc = if c = true then s.pc + 2#16 else s.pc := by
  rw [State.skipIf_eq, State.setPc_pc]

/-- PC after the skip of an SKNP (R201). -/
theorem State.skipIf_not_pc (s : State) (c : Bool) :
    (s.skipIf (!c)).pc = if c = true then s.pc else s.pc + 2#16 := by
  cases c <;> rfl

@[simp] theorem State.skipIf_freeCount (s : State) (c : Bool) : (s.skipIf c).freeCount = s.freeCount := by
  rw [State.skipIf_eq, State.setPc_freeCount]

/-- Settles O39: each skips on the answer of the one key query, or on its complement. -/
theorem keySkips : Obligations.KeySkips := by
  intro x s
  refine ⟨decodeOfEncodeIsTheInstruction (.skp x) rfl, decodeOfEncodeIsTheInstruction (.sknp x) rfl,
    (s.queryKey (s.getV x)).2.skipIf (s.queryKey (s.getV x)).1,
    (s.queryKey (s.getV x)).2.skipIf (!(s.queryKey (s.getV x)).1), rfl, rfl, fun k hk => ?onKeypad,
    fun habove => ?aboveKeypad, OnlyChanges.queryKey_skipIf s _ _, OnlyChanges.queryKey_skipIf s _ _⟩
  case onKeypad =>
    rw [hk, State.queryKey_of_key]
    exact ⟨s.skipIf_pc _, s.skipIf_not_pc _, s.skipIf_freeCount _, s.skipIf_freeCount _⟩
  case aboveKeypad =>
    have hused : s.freeCount < s.bumpFree.freeCount := Nat.lt_succ_self _
    rw [State.queryKey_of_gt habove, State.skipIf_freeCount, State.skipIf_freeCount]
    exact ⟨s.bumpFree.skipIf_pc _, s.bumpFree.skipIf_not_pc _, hused, hused⟩

/-! ### The wait for a key -/

/-- Settles O40: the instruction writes the register to wait for and the run state, and no key or register. -/
theorem waitForKeyBlocks : Obligations.WaitForKeyBlocks := fun x s =>
  ⟨decodeOfEncodeIsTheInstruction (.ldVxK x) rfl, (s.setWaitReg x).setRunState .blocked, rfl, rfl, rfl,
    ((OnlyChanges.setWaitReg s x).mono fun _ => .inr).trans ((OnlyChanges.setRunState _ _).mono fun _ => .inl)⟩

/-! ### The timers -/

/-- The tone is on exactly while ST is not zero (R205, R239). -/
theorem State.toneOn_iff (s : State) : s.toneOn = true ↔ s.st ≠ 0#8 := bne_iff_ne

/-- Settles O42: each move writes its destination alone. -/
theorem timerMoves : Obligations.TimerMoves := fun x s =>
  ⟨⟨decodeOfEncodeIsTheInstruction (.ldVxDt x) rfl, s.setV x s.dt, rfl, s.getV_setV_same x _, OnlyChanges.setV s x _⟩,
    ⟨decodeOfEncodeIsTheInstruction (.ldDtVx x) rfl, s.setDt (s.getV x), rfl, rfl, OnlyChanges.setDt s _⟩,
    ⟨decodeOfEncodeIsTheInstruction (.ldStVx x) rfl, s.setSt (s.getV x), rfl, rfl, (s.setSt (s.getV x)).toneOn_iff,
      OnlyChanges.setSt s _⟩⟩

end Sys2Proof.Machine
end

section
/-! PROOFS of the family 60_exceptions: the frame of every event that the keys, the timer and the host's quit signal
raise, what can stop an instruction, and everything that can change the run state; from them each event and the table of
transitions. -/

namespace Sys2Proof.Machine

/-! ### Frames of the events -/

/-- A key that is set or cleared changes alone (R32). -/
theorem OnlyChanges.setKey (s : State) (k : Nibble) (b : Bool) :
    OnlyChanges (fun p => p = .key k) s (s.setKey k b) := by
  intro p hp
  cases p with
  | key j => exact (State.getKey_setKey s k b j).trans (if_neg fun h => hp (by rw [h]))
  | _ => rfl

theorem OnlyChanges.setQuit (s : State) (b : Bool) : OnlyChanges (fun p => p = .quit) s (s.setQuit b) := by
  intro p hp
  cases p with
  | quit => exact absurd rfl hp
  | _ => rfl

theorem OnlyChanges.setTurns (s : State) (ts : List Turn) : OnlyChanges (fun p => p = .turns) s (s.setTurns ts) := by
  intro p hp
  cases p with
  | turns => exact absurd rfl hp
  | _ => rfl

/-- The entry to Halted changes the run state only (R230). -/
theorem OnlyChanges.halt (s : State) : OnlyChanges (fun p => p = .runState) s s.halt :=
  OnlyChanges.setRunState s .halted

/-- The quit signal changes the flag and the run state only (R223). -/
theorem OnlyChanges.quitSignal (s : State) : OnlyChanges (fun p => p = .quit ∨ p = .runState) s s.quitSignal :=
  ((OnlyChanges.setQuit s true).mono fun _ => .inl).trans ((OnlyChanges.halt _).mono fun _ => .inr)

/-- A tick changes the two timers at most (R237, R238). -/
theorem OnlyChanges.tick (s : State) : OnlyChanges (fun p => p = .dt ∨ p = .st) s s.tick := by
  rcases s.tick_cases with ⟨-, h⟩ | ⟨-, h⟩ <;> rw [h]
  · exact ((OnlyChanges.setDt s _).mono fun _ => .inl).trans ((OnlyChanges.setSt _ _).mono fun _ => .inr)
  · exact OnlyChanges.refl _ s

/-- The frame of what the mover does once its turn is taken, seen from the state before the turn (R9, log 9). -/
theorem OnlyChanges.of_setTurns {may may' : Part → Prop} {s t : State} {ts : List Turn}
    (h : OnlyChanges may (s.setTurns ts) t) (hmay : ∀ p, may p → may' p) (hturns : may' .turns) :
    OnlyChanges may' s t :=
  ((OnlyChanges.setTurns s ts).mono fun _ hp => hp ▸ hturns).trans (h.mono hmay)

/-! ### The events -/

/-- A step that delivers the event at the head of the turns to come (R9, R228). -/
theorem step_of_event {s : State} {e : Event} {ts : List Turn} (h : s.turns = .environment e :: ts) :
    step s = deliver e (s.setTurns ts) := by
  rw [step_environment (State.mover_cons h), State.inTurn, h, List.tail_cons]

/-- A timer counts down by one and stays at zero (R237). -/
theorem countDown_toNat (b : Byte) : (countDown b).toNat = b.toNat - 1 := by
  unfold countDown
  by_cases hb : b = 0x00#8
  · rw [if_pos hb, hb]
    rfl
  · rw [if_neg hb]
    bv_omega

theorem State.tick_of_running {s : State} (h : s.runState = .running) :
    s.tick = (s.setDt (countDown s.dt)).setSt (countDown s.st) :=
  s.tick_cases.elim And.right fun hn => absurd h hn.1

/-- A tick is lost unless the machine is Running (R238, D27). -/
theorem State.tick_of_not_running {s : State} (h : s.runState ≠ .running) : s.tick = s :=
  s.tick_cases.elim (fun hr => absurd hr.1 h) And.right

/-- Settles O43: each timer is counted down, and the tick writes nothing else. -/
theorem timerTickCountsDown : Obligations.TimerTickCountsDown := by
  intro s ts h hrun
  have htick := State.tick_of_running (s := s.setTurns ts) hrun
  have hframe := OnlyChanges.tick (s.setTurns ts)
  rw [htick] at hframe
  exact ⟨_, (step_of_event h).trans (congrArg Host.Outcome.next htick), countDown_toNat s.dt, countDown_toNat s.st, rfl,
    hframe.of_setTurns (fun _ hp => hp.imp_right .inl) (.inr (.inr rfl))⟩

/-- Settles O44: the tick answers the state in which the turn is taken. -/
theorem ticksAreLostUnlessRunning : Obligations.TicksAreLostUnlessRunning := by
  intro s ts h hrun
  refine ⟨s.setTurns ts, (step_of_event h).trans ?_, rfl, OnlyChanges.setTurns s ts⟩
  exact congrArg Host.Outcome.next (State.tick_of_not_running hrun)

/-- Settles O45: the signal does not look at the run state. -/
theorem quitHalts : Obligations.QuitHalts := fun s ts h =>
  ⟨(s.setTurns ts).quitSignal, step_of_event h, rfl, rfl, rfl,
    (OnlyChanges.quitSignal _).of_setTurns (fun _ hp => hp.imp_right .inl) (.inr (.inr rfl))⟩

/-- The state after a key press that ends a wait (R234, R202). -/
def State.resumed (s : State) (k : Nibble) : State :=
  ((s.setKey k true).setV s.waitReg (k.setWidth 8)).setRunState .running

theorem State.keyPress_of_blocked {s : State} (k : Nibble) (h : s.runState = .blocked) : s.keyPress k = s.resumed k :=
  (s.keyPress_cases k).elim And.right fun hn => absurd h hn.1

theorem State.keyPress_of_not_blocked {s : State} (k : Nibble) (h : s.runState ≠ .blocked) :
    s.keyPress k = s.setKey k true :=
  (s.keyPress_cases k).elim (fun hb => absurd hb.1 h) And.right

/-- The end of a wait changes the key, the register of the wait and the run state (R234). -/
theorem State.resumed_onlyChanges (s : State) (k : Nibble) :
    OnlyChanges (fun p => p = .key k ∨ p = .v s.waitReg ∨ p = .runState) s (s.resumed k) :=
  (((OnlyChanges.setKey s k true).mono fun _ => .inl).trans
    ((OnlyChanges.setV _ _ _).mono fun _ hp => .inr (.inl hp))).trans
    ((OnlyChanges.setRunState _ _).mono fun _ hp => .inr (.inr hp))

/-- The register of the wait holds the key code (R234). -/
theorem State.resumed_getV_waitReg (s : State) (k : Nibble) : (s.resumed k).getV s.waitReg = k.setWidth 8 :=
  (s.setKey k true).getV_setV_same s.waitReg _

theorem State.getKey_setKey_same (s : State) (k : Nibble) (b : Bool) : (s.setKey k b).getKey k = b :=
  (s.getKey_setKey k b k).trans (if_pos rfl)

/-- A turn that sets or clears a key and does no more. -/
theorem exists_step_setKey {s : State} {k : Nibble} {b : Bool} {ts : List Turn}
    (h : step s = .next ((s.setTurns ts).setKey k b)) :
    ∃ t, step s = .next t ∧ t.getKey k = b ∧ t.turns = ts ∧ OnlyChanges (fun p => p = .key k ∨ p = .turns) s t :=
  ⟨_, h, State.getKey_setKey_same _ k b, rfl, (OnlyChanges.setKey _ k b).of_setTurns (fun _ => .inl) (.inr rfl)⟩

/-- Settles O41: a press ends a wait only where there is one, and every other key event sets or clears its key alone. -/
theorem keyEvents : Obligations.KeyEvents := by
  intro s k ts
  refine ⟨fun h hrun => ?pressed, fun h hrun => ?resumed, fun h => exists_step_setKey (step_of_event h),
    fun b h => exists_step_setKey (step_of_event h)⟩
  case pressed =>
    have hpress := State.keyPress_of_not_blocked (s := s.setTurns ts) k hrun
    exact exists_step_setKey ((step_of_event h).trans (congrArg Host.Outcome.next hpress))
  case resumed =>
    have hpress := State.keyPress_of_blocked (s := s.setTurns ts) k hrun
    have hcode : ((s.setTurns ts).resumed k).getV s.waitReg = k.setWidth 8 :=
      (s.setTurns ts).resumed_getV_waitReg k
    exact ⟨_, (step_of_event h).trans (congrArg Host.Outcome.next hpress),
      State.getKey_setKey_same (s.setTurns ts) k true,
      (congrArg BitVec.toNat hcode).trans (BitVec.toNat_setWidth_of_le (by decide)), rfl, rfl,
      ((s.setTurns ts).resumed_onlyChanges k).of_setTurns (fun _ hp => hp.imp_right (.imp_right .inl))
        (.inr (.inr (.inr rfl)))⟩

/-! ### What stops an instruction -/

/-- An access is answered, or is the marker with an address above 0xFFF (R63). -/
theorem State.withSpan_next_or_fault (s : State) (count : Nat) (u : State) :
    (∃ t, s.withSpan count u = .next t) ∨
    ∃ a, 0xFFF < a ∧ s.withSpan count u = .fault (.undefinedDataAddress a) := by
  rcases s.withSpan_cases count u with ⟨h, -⟩ | ⟨-, ha, h⟩
  · exact .inl ⟨u, h⟩
  · exact .inr ⟨_, ha, h⟩

/-- Settles O34: RET and CALL look at the stack index, the four that access memory at the span, and the others answer a
next state. -/
theorem onlyTheTwoMarkersStopAnInstruction : Obligations.OnlyTheTwoMarkersStopAnInstruction := by
  intro i s
  cases i with
  | ret =>
    by_cases h : s.sp.toNat ≤ 15
    · exact .inl ⟨_, exec_ret_of_le h⟩
    · exact .inr (.inl ⟨.inl rfl, s.sp, by omega, exec_ret_of_gt (by omega)⟩)
  | call nnn =>
    by_cases h : (s.sp.toNat + 1) % 256 ≤ 15
    · exact .inl ⟨_, exec_call_of_le nnn h⟩
    · exact .inr (.inl ⟨.inr ⟨nnn, rfl⟩, s.sp + 1#8, by rw [State.sp_succ_toNat]; omega,
        exec_call_of_gt nnn (by omega)⟩)
  | ldBVx x => exact (s.withSpan_next_or_fault _ _).imp_right fun h => .inr ⟨.inl ⟨x, rfl⟩, h⟩
  | ldMemVx x => exact (s.withSpan_next_or_fault _ _).imp_right fun h => .inr ⟨.inr (.inl ⟨x, rfl⟩), h⟩
  | ldVxMem x => exact (s.withSpan_next_or_fault _ _).imp_right fun h => .inr ⟨.inr (.inr (.inl ⟨x, rfl⟩)), h⟩
  | drw x y n =>
    exact (s.withSpan_next_or_fault _ _).imp_right fun h => .inr ⟨.inr (.inr (.inr ⟨x, y, n, rfl⟩)), h⟩
  | _ => exact .inl ⟨_, rfl⟩

/-! ### The run state -/

/-- A turn of the core whose fetch fails halts (R222, D2). -/
theorem step_core_of_failed_fetch {s : State} (hmover : s.mover = .core) (hrun : s.runState = .running)
    (hpc : 0xFFE < s.pc.toNat) : step s = .next s.inTurn.halt := by
  rcases coreStep_cases s.inTurn with ⟨-, hle, -⟩ | ⟨-, -, h⟩ | ⟨hn, -⟩
  · exact absurd hpc (Nat.not_lt.mpr hle)
  · exact (step_core hmover).trans h
  · exact absurd hrun hn

/-- A turn of the core while Blocked or Halted is idle (R231, R233; log 10). -/
theorem step_core_of_not_running {s : State} (hmover : s.mover = .core) (hrun : s.runState ≠ .running) :
    step s = .next s.inTurn := by
  rcases coreStep_cases s.inTurn with ⟨hr, -⟩ | ⟨hr, -⟩ | ⟨-, h⟩
  · exact absurd hr hrun
  · exact absurd hr hrun
  · exact (step_core hmover).trans h

/-- Settles O2: the failed fetch is an entry to Halted, and nothing more. -/
theorem failedFetchHaltsAndChangesNothingElse : Obligations.FailedFetchHaltsAndChangesNothingElse :=
  fun s hmover hrun hpc =>
    ⟨s.inTurn.halt, step_core_of_failed_fetch hmover hrun hpc, rfl, rfl,
      (OnlyChanges.halt s.inTurn).of_setTurns (fun _ => .inl) (.inr rfl)⟩

/-- Settles O5: an idle turn of the core answers the state in which the turn is taken. -/
theorem coreIsIdleUnlessRunning : Obligations.CoreIsIdleUnlessRunning := fun s hmover hrun =>
  ⟨s.inTurn, step_core_of_not_running hmover hrun, rfl, OnlyChanges.inTurn s⟩

/-- An instruction leaves the run state, or it is Fx0A, which blocks and remembers its register (R202, R233). -/
theorem exec_runState_cases {i : Instr} {s t : State} (h : exec i s = .next t) :
    t.runState = s.runState ∨ (t.runState = .blocked ∧ ∃ x, i = .ldVxK x ∧ t.waitReg = x) := by
  refine or_iff_not_imp_left.mpr fun hne => ?_
  obtain ⟨-, -, -, -, hwriter⟩ := runLoopStateWriters.1 i s t h
  obtain ⟨x, rfl⟩ := hwriter (.inl hne)
  cases h
  exact ⟨rfl, x, rfl, rfl⟩

/-- An event leaves the run state, or it is Quit, which halts (R223), a key press that ends a wait (R234), or a reset
(R260). -/
theorem deliver_runState_cases {e : Event} {s t : State} (h : deliver e s = .next t) :
    t.runState = s.runState ∨ (e = .quit ∧ t.runState = .halted ∧ t.quit = true) ∨
    (∃ k, e = .keyDown k ∧ s.runState = .blocked ∧ t.runState = .running ∧ t.getV s.waitReg = k.setWidth 8) ∨
    ∃ p, e = .reset p ∧ t.runState = .running := by
  cases e with
  | timerTick =>
    cases h
    exact .inl (OnlyChanges.tick s .runState (by simp))
  | keyDown k =>
    cases h
    by_cases hrun : s.runState = .blocked
    · rw [State.keyPress_of_blocked k hrun]
      exact .inr (.inr (.inl ⟨k, rfl, hrun, rfl, s.resumed_getV_waitReg k⟩))
    · rw [State.keyPress_of_not_blocked k hrun]
      exact .inl rfl
  | keyUp _ | setKeyState _ _ | saveState => cases h; exact .inl rfl
  | quit => cases h; exact .inr (.inl ⟨rfl, rfl, rfl⟩)
  | loadProgram image =>
    rcases s.loadProgram_cases image with ⟨-, hl⟩ | ⟨-, -, hl⟩ | ⟨-, -, hl⟩ <;> cases hl.symm.trans h
    exact .inl rfl
  | restoreState image =>
    cases h
    obtain ⟨-, hrun, -⟩ := s.restore_keeps image
    exact .inl hrun
  | reset p => cases h; exact .inr (.inr (.inr ⟨p, rfl, rfl⟩))

/-- Settles O4: a step is an instruction, a failed fetch, an idle turn or an event, and each changes the run state only
as the table says. -/
theorem runStateChangesOnlyByTheTable : Obligations.RunStateChangesOnlyByTheTable := by
  intro s t h hne
  rcases step_cases s with ⟨hs, hstep⟩ | ⟨hmover, hrun, hpc, hstep⟩ | ⟨-, -, hstep⟩ | ⟨e, hmover, hstep⟩ <;>
    rw [hstep] at h
  · exact .inl ⟨hs, (exec_runState_cases h).resolve_left hne⟩
  · cases h
    exact .inr (.inl ⟨hmover, hrun, hpc, rfl⟩)
  · cases h
    exact absurd rfl hne
  · rw [hmover]
    rcases (deliver_runState_cases h).resolve_left hne with ⟨rfl, ht⟩ | ⟨k, rfl, ht⟩ | ⟨p, rfl, ht⟩
    · exact .inr (.inr (.inl ⟨rfl, ht⟩))
    · exact .inr (.inr (.inr (.inl ⟨k, rfl, ht⟩)))
    · exact .inr (.inr (.inr (.inr ⟨p, rfl, ht⟩)))

/-- Settles O3: no row of the table of transitions leads out of Halted but the reset, and the core is idle there. -/
theorem haltedIsTerminal : Obligations.HaltedIsTerminal := by
  intro s t hs h hreset
  have hfinal : s.runState = .halted := hs
  have hidle : s.runState ≠ .running := fun hrun => nomatch hfinal.symm.trans hrun
  refine ⟨?stays, fun hmover => ?idle⟩
  case stays =>
    by_contra ht
    have hne : t.runState ≠ s.runState := fun heq => ht (heq.trans hfinal)
    rcases runStateChangesOnlyByTheTable s t h hne with
      ⟨⟨-, hrun, -⟩, -⟩ | ⟨-, hrun, -⟩ | ⟨-, hhalted, -⟩ | ⟨k, -, hblocked, -⟩ | ⟨p, hp, -⟩
    · exact hidle hrun
    · exact hidle hrun
    · exact ht hhalted
    · exact nomatch hfinal.symm.trans hblocked
    · exact hreset p hp
  case idle =>
    cases (step_core_of_not_running hmover hidle).symm.trans h
    exact OnlyChanges.inTurn s

end Sys2Proof.Machine
end

section
/-! PROOFS of the family 70_reset_and_hazards: what LoadProgram places, where the parts of a state lie in its snapshot,
what a restore takes from an image; from them the layout of a snapshot and the round trip. -/

namespace Sys2Proof.Machine

/-! ### A loaded program -/

/-- Bytes written from an address on change these addresses only (R62, R263). -/
theorem OnlyChanges.writeFrom (s : State) (base : Nat) (bs : List Byte) :
    OnlyChanges (fun p => ∃ k, k < bs.length ∧ p = .mem (base + k)) s
      (s.setMem (s.mem.writeFrom (fun a => a) base bs)) := by
  intro p hp
  cases p with
  | mem a =>
    refine Memory.read_writeFrom_outside s.mem base bs ?_
    by_contra ha
    exact hp ⟨a - base, by omega, congrArg Part.mem (by omega)⟩
  | _ => rfl

/-- The k-th byte written from an address on lies k bytes above it (R263). -/
theorem Memory.read_writeFrom_add {m : Memory} (hm : m.wf) {base : Nat} {bs : List Byte}
    (hb : base + bs.length ≤ 4096) {k : Nat} (hk : k < bs.length) :
    (m.writeFrom (fun a => a) base bs).read (base + k) = bs[k] := by
  rw [Memory.read_writeFrom hm base bs hb, dif_pos (by omega)]
  simp only [Nat.add_sub_cancel_left]

/-- Once a program is running a load is refused (R263, R73; log 24). -/
theorem State.loadProgram_of_started {s : State} (image : List Byte) (hs : s.started = true) :
    s.loadProgram image = .refused .loadWhileRunning := if_pos hs

/-- An image above 3584 bytes is rejected (R264, D35). -/
theorem State.loadProgram_of_gt {s : State} {image : List Byte} (hs : s.started = false) (hlen : 3584 < image.length) :
    s.loadProgram image = .refused (.imageTooLarge image.length) := by
  rw [State.loadProgram, hs]
  exact if_neg (Nat.not_le.mpr hlen)

/-- An image that fits is written from 0x200 on (R263). -/
theorem State.loadProgram_of_le {s : State} {image : List Byte} (hs : s.started = false)
    (hlen : image.length ≤ 3584) :
    s.loadProgram image = .next (s.setMem (s.mem.writeFrom (fun a => a) 0x200 image)) := by
  rw [State.loadProgram, hs]
  exact if_pos hlen

/-- Settles O55: a load is refused once a program is running, or for its size; else the image is written from 0x200
on. -/
theorem loadProgramPlacesTheImage : Obligations.LoadProgramPlacesTheImage := by
  intro s image ts h
  have hstep : step s = (s.setTurns ts).loadProgram image := step_of_event h
  refine ⟨fun hs => hstep.trans (State.loadProgram_of_started image hs),
    fun hs hlen => hstep.trans (State.loadProgram_of_gt hs hlen), fun hs hm hlen => ?placed⟩
  case placed =>
    exact ⟨_, hstep.trans (State.loadProgram_of_le hs hlen), rfl,
      fun k hk => Memory.read_writeFrom_add hm (by omega) hk,
      (OnlyChanges.writeFrom (s.setTurns ts) 0x200 image).of_setTurns (fun _ => .inr) (.inl rfl)⟩

/-! ### Where a part lies in an image -/

/-- The bytes `part` lie in an image from an offset on (R266). -/
def HoldsAt (image : List Byte) (offset : Nat) (part : List Byte) : Prop :=
  ∀ k, k < part.length → byteAt image (offset + k) = byteAt part k

/-- A part lies behind the bytes before it. -/
theorem holdsAt_append {before : List Byte} {offset : Nat} (h : before.length = offset) (part after : List Byte) :
    HoldsAt (before ++ (part ++ after)) offset part := fun _ hk =>
  (byteAt_append_right h _ _).trans (byteAt_append_left after hk)

theorem HoldsAt.wordAt_eq {image part : List Byte} {offset k : Nat} (h : HoldsAt image offset part)
    (hk : k + 1 < part.length) : wordAt image (offset + k) = wordAt part k :=
  congrArg₂ wordOfBytes (h k (by omega)) (h (k + 1) hk)

theorem HoldsAt.colorAt_eq {image part : List Byte} {offset k : Nat} (h : HoldsAt image offset part)
    (hk : k + 3 < part.length) : colorAt image (offset + k) = colorAt part k :=
  congrArg₂ (· ++ ·) (h.wordAt_eq (k := k) (by omega)) (h.wordAt_eq (k := k + 2) hk)

/-! ### The parts of a snapshot -/

/-- PC, SP, I, ST and DT as a snapshot stores them (R266). -/
def State.registerBytes (s : State) : List Byte :=
  bytesOfWord s.pc ++ [s.sp] ++ bytesOfWord s.i ++ [s.st, s.dt]

/-- The stack as a snapshot stores it (R266). -/
def State.stackBytes (s : State) : List Byte := s.stack.toList.flatMap bytesOfWord

/-- Main memory as a snapshot stores it (R266). -/
def State.memBytes (s : State) : List Byte := s.mem.readFrom (fun a => a) 0 Config.memSize

/-- The colours of the cells as a snapshot stores them (R266). -/
def State.colorBytes (s : State) : List Byte :=
  (List.finRange 2048).flatMap fun n => bytesOfColor (colorOf (s.fb.cell (Config.cellOrder n)))

/-- A snapshot is its five parts, one behind the other (R266). -/
theorem State.save_eq (s : State) :
    s.save = s.registerBytes ++ (s.v.toList ++ (s.stackBytes ++ (s.memBytes ++ s.colorBytes))) := by
  simp only [State.save, State.registerBytes, State.stackBytes, State.memBytes, State.colorBytes, List.append_assoc]

@[simp] theorem State.length_registerBytes (s : State) : s.registerBytes.length = 7 := rfl

@[simp] theorem State.length_stackBytes (s : State) : s.stackBytes.length = 32 := by
  rw [State.stackBytes, length_flatMap_const length_bytesOfWord, Vector.length_toList]

@[simp] theorem State.length_memBytes (s : State) : s.memBytes.length = 4096 := Memory.length_readFrom ..

@[simp] theorem State.length_colorBytes (s : State) : s.colorBytes.length = 8192 := length_colors ..

theorem State.length_save (s : State) : s.save.length = snapshotSize := by
  simp [State.save_eq]

theorem State.save_holdsAt_registers (s : State) : HoldsAt s.save 0 s.registerBytes := by
  intro k hk
  rw [State.save_eq, Nat.zero_add, byteAt_append_left _ hk]

theorem State.save_holdsAt_v (s : State) : HoldsAt s.save 7 s.v.toList := by
  rw [State.save_eq]
  exact holdsAt_append s.length_registerBytes _ _

theorem State.save_holdsAt_stack (s : State) : HoldsAt s.save 23 s.stackBytes := by
  rw [State.save_eq, ← List.append_assoc]
  exact holdsAt_append (by simp) _ _

theorem State.save_holdsAt_mem (s : State) : HoldsAt s.save 55 s.memBytes := by
  rw [State.save_eq, ← List.append_assoc, ← List.append_assoc]
  exact holdsAt_append (by simp) _ _

theorem State.save_holdsAt_colors (s : State) : HoldsAt s.save 4151 s.colorBytes := by
  rw [State.save_eq, ← List.append_assoc, ← List.append_assoc, ← List.append_assoc]
  exact fun k _ => byteAt_append_right (by simp) _ k

/-! ### What a snapshot holds -/

theorem State.save_pc (s : State) : wordAt s.save 0 = s.pc := by
  have h := s.save_holdsAt_registers.wordAt_eq (k := 0) (by simp)
  exact h.trans (wordOfBytes_bytesOfWord s.pc)

theorem State.save_sp (s : State) : byteAt s.save 2 = s.sp := s.save_holdsAt_registers 2 (by simp)

theorem State.save_i (s : State) : wordAt s.save 3 = s.i :=
  (s.save_holdsAt_registers.wordAt_eq (k := 3) (by simp)).trans (wordOfBytes_bytesOfWord s.i)

theorem State.save_st (s : State) : byteAt s.save 5 = s.st := s.save_holdsAt_registers 5 (by simp)

theorem State.save_dt (s : State) : byteAt s.save 6 = s.dt := s.save_holdsAt_registers 6 (by simp)

theorem State.save_v (s : State) (r : Nibble) : byteAt s.save (7 + r.toNat) = s.getV r := by
  have hr : r.toNat < s.v.toList.length := by rw [Vector.length_toList]; exact r.isLt
  rw [s.save_holdsAt_v _ hr, byteAt, ← List.getElem_eq_getD (h := hr)]
  exact Vector.getElem_toList _

theorem State.save_stack (s : State) (k : Nibble) : wordAt s.save (23 + 2 * k.toNat) = s.getStack k := by
  have hk : k.toNat < 16 := k.isLt
  rw [s.save_holdsAt_stack.wordAt_eq (by rw [State.length_stackBytes]; omega), State.stackBytes,
    wordAt_flatMap _ _ (by rwa [Vector.length_toList])]
  exact Vector.getElem_toList _

theorem State.save_mem (s : State) {a : Nat} (ha : a ≤ 0xFFF) : byteAt s.save (55 + a) = s.mem.read a := by
  have hlen : a < s.memBytes.length := by rw [State.length_memBytes]; omega
  rw [s.save_holdsAt_mem a hlen, byteAt, ← List.getElem_eq_getD (h := hlen)]
  exact (Memory.getElem_readFrom _ _ _ _ _ hlen).trans (congrArg s.mem.read (Nat.zero_add a))

theorem State.save_color (s : State) (n : Fin 2048) :
    colorAt s.save (4151 + 4 * n.val) = colorOf (s.fb.cell (Config.cellOrder n)) := by
  rw [s.save_holdsAt_colors.colorAt_eq (by rw [State.length_colorBytes]; omega), State.colorBytes,
    colorAt_flatMap (fun n => colorOf (s.fb.cell (Config.cellOrder n))) _ _
      (by rw [List.length_finRange]; exact n.isLt),
    List.getElem_finRange]
  rfl

/-- Settles O56: each part of the snapshot lies at its offset, and the snapshot reads no other part of the state. -/
theorem snapshotLayout : Obligations.SnapshotLayout := fun s =>
  ⟨rfl, s.length_save, s.save_pc, s.save_sp, s.save_i, s.save_st, s.save_dt, s.save_v, s.save_stack,
    fun _ ha => s.save_mem ha, s.save_color, fun _ _ _ _ _ => rfl⟩

/-! ### What a restore takes from an image -/

/-- A restored state differs from the old one in the nine saved parts at most (R267; D31, log 26). -/
theorem State.restore_eq (s : State) (image : List Byte) : s.restore image =
    { s with pc := (s.restore image).pc, sp := (s.restore image).sp, i := (s.restore image).i,
             st := (s.restore image).st, dt := (s.restore image).dt, v := (s.restore image).v,
             stack := (s.restore image).stack, mem := (s.restore image).mem, fb := (s.restore image).fb } := by
  rw [State.restore]
  by_cases h : image.length = snapshotSize
  · rw [if_pos h]
  · rw [if_neg h]

section
variable (s : State) {image : List Byte} (h : image.length = snapshotSize)
include h

/-- The parts of a restored state that a single byte or word of the image gives (R266, R267). -/
theorem State.restore_registers : (s.restore image).pc = wordAt image 0 ∧ (s.restore image).sp = byteAt image 2 ∧
    (s.restore image).i = wordAt image 3 ∧ (s.restore image).st = byteAt image 5 ∧
    (s.restore image).dt = byteAt image 6 := by
  rw [State.restore, if_pos h]
  exact ⟨rfl, rfl, rfl, rfl, rfl⟩

theorem State.restore_getV (r : Nibble) : (s.restore image).getV r = byteAt image (7 + r.toNat) := by
  rw [State.restore, if_pos h]
  exact Vector.getElem_ofFn r.isLt

theorem State.restore_getStack (k : Nibble) : (s.restore image).getStack k = wordAt image (23 + 2 * k.toNat) := by
  rw [State.restore, if_pos h]
  exact Vector.getElem_ofFn k.isLt

theorem State.restore_mem_read {a : Nat} (ha : a ≤ 0xFFF) : (s.restore image).mem.read a = byteAt image (55 + a) := by
  rw [s.restore_mem h]
  exact Memory.read_ofBytes_range (Nat.le_refl _) (Nat.lt_succ_of_le ha) _

/-- A cell takes the colour at its place in the order of the cells (R266, log 25). -/
theorem State.restore_cell (n : Fin 2048) : (s.restore image).fb.cell n =
    colorIsSet (colorAt image (4151 + 4 * (Config.cellOrder.symm n).val)) := by
  have hx : n.val % 64 < 64 := Nat.mod_lt _ (by decide)
  have hy : n.val / 64 < 32 := by omega
  rw [State.restore, if_pos h, Framebuffer.cell, Framebuffer.pixel, dif_pos ⟨hx, hy⟩]
  simp only [Vector.getElem_ofFn, Nat.div_add_mod]

/-- The n-th cell of the order takes the n-th colour (R266, log 25). -/
theorem State.restore_cellOrder (n : Fin 2048) : (s.restore image).fb.cell (Config.cellOrder n) =
    colorIsSet (colorAt image (4151 + 4 * n.val)) := by
  rw [s.restore_cell h, Equiv.symm_apply_apply]

end

/-- Settles O57: an image of another size leaves the state in which the turn is taken, and each saved part is read from
an image of the right size. -/
theorem restoreOverwritesTheSnapshotState : Obligations.RestoreOverwritesTheSnapshotState := by
  intro s image ts h
  have hstep : step s = .next ((s.setTurns ts).restore image) := step_of_event h
  refine ⟨fun hsize => ?wrongSize, fun hsize => ?rightSize⟩
  case wrongSize =>
    rw [State.restore_of_wrong_size _ hsize] at hstep
    exact ⟨_, hstep, rfl, OnlyChanges.setTurns s ts⟩
  case rightSize =>
    obtain ⟨hpc, hsp, hi, hst, hdt⟩ := (s.setTurns ts).restore_registers hsize
    exact ⟨_, hstep, hpc, hsp, hi, hst, hdt, State.restore_getV _ hsize, State.restore_getStack _ hsize,
      fun _ ha => State.restore_mem_read _ hsize ha, State.restore_cellOrder _ hsize,
      (s.setTurns ts).restore_keeps image⟩

/-! ### The round trip -/

/-- Framebuffers that show the same in each of the 2048 cells are the same (R31). -/
theorem Framebuffer.ext_of_cell {f g : Framebuffer} (h : ∀ n, f.cell n = g.cell n) : f = g := by
  refine Framebuffer.ext_of_pixel fun x y => ?_
  by_cases hxy : x < 64 ∧ y < 32
  · have hcell := h ⟨64 * y + x, by omega⟩
    have hx : (64 * y + x) % 64 = x := by omega
    have hy : (64 * y + x) / 64 = y := by omega
    simpa only [Framebuffer.cell, hx, hy] using hcell
  · rw [f.pixel_outside hxy, g.pixel_outside hxy]

/-- The registers come back, byte by byte (R267). -/
theorem State.restore_save_v (s u : State) : (u.restore s.save).v = s.v :=
  vector16_ext_nibble fun r => (u.restore_getV s.length_save r).trans (s.save_v r)

/-- The stack comes back, word by word (R267). -/
theorem State.restore_save_stack (s u : State) : (u.restore s.save).stack = s.stack :=
  vector16_ext_nibble fun k => (u.restore_getStack s.length_save k).trans (s.save_stack k)

/-- A canonical memory comes back: the restored memory is canonical and has the same bytes (R267, log 1). -/
theorem State.restore_save_mem {s : State} (hm : s.mem.wf) (u : State) : (u.restore s.save).mem = s.mem := by
  have hwf : (u.restore s.save).mem.wf := by
    rw [u.restore_mem s.length_save]
    exact Memory.ofBytes_range_wf (Nat.le_refl _) _
  refine Memory.ext_of_read hwf hm fun a ha => ?_
  have ha' : a ≤ 0xFFF := Nat.le_of_lt_succ ha
  exact (u.restore_mem_read s.length_save ha').trans (s.save_mem ha')

/-- The framebuffer comes back, whatever the order of the cells and the two colours (R267, log 25). -/
theorem State.restore_save_fb (s u : State) : (u.restore s.save).fb = s.fb := by
  refine Framebuffer.ext_of_cell fun n => ?_
  rw [u.restore_cell s.length_save, s.save_color, colorIsSet_colorOf, Equiv.apply_symm_apply]

/-- Settles O58: each saved part comes back, and a restore writes no other. -/
theorem snapshotRoundTrip : Obligations.SnapshotRoundTrip := by
  intro s u hm
  obtain ⟨hpc, hsp, hi, hst, hdt⟩ := u.restore_registers s.length_save
  rw [State.restore_eq, hpc, hsp, hi, hst, hdt, s.save_pc, s.save_sp, s.save_i, s.save_st, s.save_dt,
    s.restore_save_v, s.restore_save_stack, State.restore_save_mem hm, s.restore_save_fb]

end Sys2Proof.Machine
end
